-- ==== Sys2Proof/Word.lean ====
section
/-! DEFINITION. The machine's words: bytes, 16-bit words, 12-bit addresses and 4-bit fields
(`00_scope.md` rules R6, R8, R9). All values are unsigned. -/

namespace Sys2Proof

/-- An 8-bit value: a general register, a timer, a byte of memory, an immediate `kk`. -/
abbrev Byte := BitVec 8

/-- A 16-bit value: an opcode word, `pc`, `I`, a return address. -/
abbrev Word := BitVec 16

/-- A 12-bit address operand `nnn`. -/
abbrev Addr := BitVec 12

/-- A 4-bit field: a general register's number `x` or `y`, a sprite height `n`, a key index. -/
abbrev Nibble := BitVec 4

end Sys2Proof
end

