-- ==== Sys2Proof/Syntax.lean ====
section
/-! DEFINITION. The instruction forms (`30_encoding.md` rules R78, R86, R93): one constructor per row of the
opcode table, with exactly the fields of the row's format. -/

namespace Sys2Proof

/-- A decoded instruction: "a closed tagged value: the form (one of the 35 of rule R86) and exactly the fields of
its format" (R93). `x` and `y` are register numbers; `SHR` and `SHL` keep the `y` their execution ignores (R81). -/
inductive Instr where
  /-- `CLS` (row 1, `00E0`, R180). -/
  | cls
  /-- `RET` (row 2, `00EE`, R141). -/
  | ret
  /-- `SYS nnn` (row 3, `0nnn`, R140). -/
  | sys (nnn : Addr)
  /-- `JP nnn` (row 4, `1nnn`, R143). -/
  | jp (nnn : Addr)
  /-- `CALL nnn` (row 5, `2nnn`, R142). -/
  | call (nnn : Addr)
  /-- `SE Vx, kk` (row 6, `3xkk`, R145). -/
  | seVxKk (x : Nibble) (kk : Byte)
  /-- `SNE Vx, kk` (row 7, `4xkk`, R146). -/
  | sneVxKk (x : Nibble) (kk : Byte)
  /-- `SE Vx, Vy` (row 8, `5xy0`, R147). -/
  | seVxVy (x y : Nibble)
  /-- `LD Vx, kk` (row 9, `6xkk`, R160). -/
  | ldVxKk (x : Nibble) (kk : Byte)
  /-- `ADD Vx, kk` (row 10, `7xkk`, R161). -/
  | addVxKk (x : Nibble) (kk : Byte)
  /-- `LD Vx, Vy` (row 11, `8xy0`, R162). -/
  | ldVxVy (x y : Nibble)
  /-- `OR Vx, Vy` (row 12, `8xy1`, R163). -/
  | orVxVy (x y : Nibble)
  /-- `AND Vx, Vy` (row 13, `8xy2`, R164). -/
  | andVxVy (x y : Nibble)
  /-- `XOR Vx, Vy` (row 14, `8xy3`, R165). -/
  | xorVxVy (x y : Nibble)
  /-- `ADD Vx, Vy` (row 15, `8xy4`, R166). -/
  | addVxVy (x y : Nibble)
  /-- `SUB Vx, Vy` (row 16, `8xy5`, R167). -/
  | subVxVy (x y : Nibble)
  /-- `SHR Vx` (row 17, `8xy6`, R168); `y` is kept and ignored. -/
  | shrVx (x y : Nibble)
  /-- `SUBN Vx, Vy` (row 18, `8xy7`, R169). -/
  | subnVxVy (x y : Nibble)
  /-- `SHL Vx` (row 19, `8xyE`, R170); `y` is kept and ignored. -/
  | shlVx (x y : Nibble)
  /-- `SNE Vx, Vy` (row 20, `9xy0`, R148). -/
  | sneVxVy (x y : Nibble)
  /-- `LD I, nnn` (row 21, `Annn`, R200). -/
  | ldINnn (nnn : Addr)
  /-- `JP V0, nnn` (row 22, `Bnnn`, R144). -/
  | jpV0Nnn (nnn : Addr)
  /-- `RND Vx, kk` (row 23, `Cxkk`, R171). -/
  | rndVxKk (x : Nibble) (kk : Byte)
  /-- `DRW Vx, Vy, n` (row 24, `Dxyn`, R181). -/
  | drw (x y n : Nibble)
  /-- `SKP Vx` (row 25, `Ex9E`, R190). -/
  | skpVx (x : Nibble)
  /-- `SKNP Vx` (row 26, `ExA1`, R191). -/
  | sknpVx (x : Nibble)
  /-- `LD Vx, DT` (row 27, `Fx07`, R215). -/
  | ldVxDt (x : Nibble)
  /-- `LD Vx, K` (row 28, `Fx0A`, R192). -/
  | ldVxK (x : Nibble)
  /-- `LD DT, Vx` (row 29, `Fx15`, R216). -/
  | ldDtVx (x : Nibble)
  /-- `LD ST, Vx` (row 30, `Fx18`, R217). -/
  | ldStVx (x : Nibble)
  /-- `ADD I, Vx` (row 31, `Fx1E`, R201). -/
  | addIVx (x : Nibble)
  /-- `LD F, Vx` (row 32, `Fx29`, R202). -/
  | ldFVx (x : Nibble)
  /-- `LD B, Vx` (row 33, `Fx33`, R203). -/
  | ldBVx (x : Nibble)
  /-- `LD [I], Vx` (row 34, `Fx55`, R204). -/
  | ldMemVx (x : Nibble)
  /-- `LD Vx, [I]` (row 35, `Fx65`, R205). -/
  | ldVxMem (x : Nibble)
  deriving DecidableEq, Repr

/-- The side-effect class of an instruction, the `effect` output (`10_state.md` R41, `30_encoding.md` R92). -/
inductive SideEffect where
  /-- `None`: the front end has nothing to do. -/
  | noEffect
  /-- `NeedsScreenRedraw`: the front end reads the screen after EXECUTE (R246). -/
  | needsScreenRedraw
  /-- `NeedsKeyState`: the front end updates the key flags before EXECUTE (R244). -/
  | needsKeyState
  /-- `BlocksOnKey`: the front end answers the key wait (R245). -/
  | blocksOnKey
  /-- `AffectsSound`: the front end reads the sound output after EXECUTE (R247). -/
  | affectsSound
  deriving DecidableEq, Repr

end Sys2Proof
end

