-- ==== Sys2Proof/WellFormed.lean ====
section
/-! DEFINITION. Which instruction terms are forms the decoder can produce (`30_encoding.md` rules R80, R83, R91).
The fields' types already hold every range check of R91 (x, y, n < 16, kk < 256, nnn ≤ 0xFFF), and every value of
every field is legal (R80), but for two values of the field of `SYS`: those words are `CLS` and `RET` (R83). -/

namespace Sys2Proof

/-- A term is well formed when some opcode word decodes to it: `SYS` takes any address but 0x0E0 and 0x0EE, whose
words are `CLS` and `RET` (R83, R140); every other term is well formed. -/
def Instr.wellFormed (i : Instr) : Bool :=
  i != .sys 0x0E0#12 && i != .sys 0x0EE#12

end Sys2Proof
end

