-- ==== Sys2Proof/Decode.lean ====
section
/-! DEFINITION. The decoder and the encoder (`30_encoding.md` rules R75 to R95). Decoding is total: it answers one
instruction, or `illegal` for a word outside the opcode map, or `truncated` for fewer than two bytes. -/

namespace Sys2Proof

/-- What decoding answers: "either one instruction form with its fields or the verdict ILLEGAL" (R82). -/
inductive Verdict where
  /-- The word is this instruction. -/
  | instr (i : Instr)
  /-- The word is none of the 35 forms (R88). The decode step raises ILLEGAL_OPCODE on it. -/
  | illegal
  /-- Fewer than two bytes were given; a fetch always gives two (R75). -/
  | truncated
  deriving DecidableEq, Repr

/-- The instruction of a verdict, if it has one. -/
def Verdict.toOption : Verdict → Option Instr
  | .instr i => some i
  | .illegal => none
  | .truncated => none

/-! ### Fields of an opcode (R77) -/

/-- `hi_nibble = op[15:12]`. -/
def opFamily (op : Word) : Nibble := op.extractLsb' 12 4

/-- `x = op[11:8]`. -/
def opX (op : Word) : Nibble := op.extractLsb' 8 4

/-- `y = op[7:4]`. -/
def opY (op : Word) : Nibble := op.extractLsb' 4 4

/-- `n = op[3:0]`. -/
def opN (op : Word) : Nibble := op.extractLsb' 0 4

/-- `kk = op[7:0]`. -/
def opKk (op : Word) : Byte := op.extractLsb' 0 8

/-- `nnn = op[11:0]`. -/
def opNnn (op : Word) : Addr := op.extractLsb' 0 12

/-- A word from its bytes, big-endian: the first byte is bits 15–8 (R76, `20_memory.md` R52). -/
def wordOfBytes (hi lo : Byte) : Word := hi ++ lo

/-- The bytes of a word as memory holds them, the high byte at the lower address (R76, `20_memory.md` R52). -/
def bytesOfWord (w : Word) : List Byte := [w.extractLsb' 8 8, w.extractLsb' 0 8]

/-! ### The decoder (R82 to R88) -/

/-- Family 0: the words 00E0 and 00EE, else `SYS` (R83). -/
def decodeFamily0 (op : Word) : Verdict :=
  if op = 0x00E0#16 then .instr .cls
  else if op = 0x00EE#16 then .instr .ret
  else .instr (.sys (opNnn op))

/-- Family 8 dispatches on the low nibble (R84). -/
def decodeFamily8 (op : Word) : Verdict :=
  if opN op = 0x0#4 then .instr (.ldVxVy (opX op) (opY op))
  else if opN op = 0x1#4 then .instr (.orVxVy (opX op) (opY op))
  else if opN op = 0x2#4 then .instr (.andVxVy (opX op) (opY op))
  else if opN op = 0x3#4 then .instr (.xorVxVy (opX op) (opY op))
  else if opN op = 0x4#4 then .instr (.addVxVy (opX op) (opY op))
  else if opN op = 0x5#4 then .instr (.subVxVy (opX op) (opY op))
  else if opN op = 0x6#4 then .instr (.shrVx (opX op) (opY op))
  else if opN op = 0x7#4 then .instr (.subnVxVy (opX op) (opY op))
  else if opN op = 0xE#4 then .instr (.shlVx (opX op) (opY op))
  else .illegal

/-- Family E dispatches on the low byte (R85). -/
def decodeFamilyE (op : Word) : Verdict :=
  if opKk op = 0x9E#8 then .instr (.skpVx (opX op))
  else if opKk op = 0xA1#8 then .instr (.sknpVx (opX op))
  else .illegal

/-- Family F dispatches on the low byte (R85). -/
def decodeFamilyF (op : Word) : Verdict :=
  if opKk op = 0x07#8 then .instr (.ldVxDt (opX op))
  else if opKk op = 0x0A#8 then .instr (.ldVxK (opX op))
  else if opKk op = 0x15#8 then .instr (.ldDtVx (opX op))
  else if opKk op = 0x18#8 then .instr (.ldStVx (opX op))
  else if opKk op = 0x1E#8 then .instr (.addIVx (opX op))
  else if opKk op = 0x29#8 then .instr (.ldFVx (opX op))
  else if opKk op = 0x33#8 then .instr (.ldBVx (opX op))
  else if opKk op = 0x55#8 then .instr (.ldMemVx (opX op))
  else if opKk op = 0x65#8 then .instr (.ldVxMem (opX op))
  else .illegal

/-- The decode function (R87): the top nibble selects the family. -/
def decode (op : Word) : Verdict :=
  match (opFamily op).toNat with
  | 0x0 => decodeFamily0 op
  | 0x1 => .instr (.jp (opNnn op))
  | 0x2 => .instr (.call (opNnn op))
  | 0x3 => .instr (.seVxKk (opX op) (opKk op))
  | 0x4 => .instr (.sneVxKk (opX op) (opKk op))
  | 0x5 => if opN op = 0x0#4 then .instr (.seVxVy (opX op) (opY op)) else .illegal
  | 0x6 => .instr (.ldVxKk (opX op) (opKk op))
  | 0x7 => .instr (.addVxKk (opX op) (opKk op))
  | 0x8 => decodeFamily8 op
  | 0x9 => if opN op = 0x0#4 then .instr (.sneVxVy (opX op) (opY op)) else .illegal
  | 0xA => .instr (.ldINnn (opNnn op))
  | 0xB => .instr (.jpV0Nnn (opNnn op))
  | 0xC => .instr (.rndVxKk (opX op) (opKk op))
  | 0xD => .instr (.drw (opX op) (opY op) (opN op))
  | 0xE => decodeFamilyE op
  | _ => decodeFamilyF op

/-- Decoding from bytes: an instruction is always two bytes (R75); the rest is handed back. -/
def decodeBytes : List Byte → Verdict × List Byte
  | hi :: lo :: rest => (decode (wordOfBytes hi lo), rest)
  | [b] => (.truncated, [b])
  | [] => (.truncated, [])

/-- The instruction the decoder reads from an instruction of the opcode table whose bits are `w`: its one word is
laid out as the hardware stores it and given to the byte decoder; bits above `nbits` are 0. -/
def decodeTableWord (nbits w : Nat) : Option Instr :=
  (decodeBytes (bytesOfWord (BitVec.ofNat 16 (w % 2 ^ nbits)))).1.toOption

/-! ### The encoder (R78, R86) -/

/-- Formats XY and XYN (R78): `hhhh xxxx yyyy ssss`. -/
def packXYN (h x y n : Nibble) : Word := (h ++ x) ++ (y ++ n)

/-- Formats XKK and X (R78): `hhhh xxxx kkkk kkkk`. -/
def packXKK (h x : Nibble) (kk : Byte) : Word := (h ++ x) ++ kk

/-- Format NNN (R78): `hhhh nnnn nnnn nnnn`. -/
def packNNN (h : Nibble) (nnn : Addr) : Word := h ++ nnn

/-- The word of an instruction, by its row of the opcode map (R86). -/
def encode : Instr → Word
  | .cls => 0x00E0#16
  | .ret => 0x00EE#16
  | .sys nnn => packNNN 0x0#4 nnn
  | .jp nnn => packNNN 0x1#4 nnn
  | .call nnn => packNNN 0x2#4 nnn
  | .seVxKk x kk => packXKK 0x3#4 x kk
  | .sneVxKk x kk => packXKK 0x4#4 x kk
  | .seVxVy x y => packXYN 0x5#4 x y 0x0#4
  | .ldVxKk x kk => packXKK 0x6#4 x kk
  | .addVxKk x kk => packXKK 0x7#4 x kk
  | .ldVxVy x y => packXYN 0x8#4 x y 0x0#4
  | .orVxVy x y => packXYN 0x8#4 x y 0x1#4
  | .andVxVy x y => packXYN 0x8#4 x y 0x2#4
  | .xorVxVy x y => packXYN 0x8#4 x y 0x3#4
  | .addVxVy x y => packXYN 0x8#4 x y 0x4#4
  | .subVxVy x y => packXYN 0x8#4 x y 0x5#4
  | .shrVx x y => packXYN 0x8#4 x y 0x6#4
  | .subnVxVy x y => packXYN 0x8#4 x y 0x7#4
  | .shlVx x y => packXYN 0x8#4 x y 0xE#4
  | .sneVxVy x y => packXYN 0x9#4 x y 0x0#4
  | .ldINnn nnn => packNNN 0xA#4 nnn
  | .jpV0Nnn nnn => packNNN 0xB#4 nnn
  | .rndVxKk x kk => packXKK 0xC#4 x kk
  | .drw x y n => packXYN 0xD#4 x y n
  | .skpVx x => packXKK 0xE#4 x 0x9E#8
  | .sknpVx x => packXKK 0xE#4 x 0xA1#8
  | .ldVxDt x => packXKK 0xF#4 x 0x07#8
  | .ldVxK x => packXKK 0xF#4 x 0x0A#8
  | .ldDtVx x => packXKK 0xF#4 x 0x15#8
  | .ldStVx x => packXKK 0xF#4 x 0x18#8
  | .addIVx x => packXKK 0xF#4 x 0x1E#8
  | .ldFVx x => packXKK 0xF#4 x 0x29#8
  | .ldBVx x => packXKK 0xF#4 x 0x33#8
  | .ldMemVx x => packXKK 0xF#4 x 0x55#8
  | .ldVxMem x => packXKK 0xF#4 x 0x65#8

/-! ### Columns of the opcode map (R86, R92) -/

/-- The `mask` column of R86: the fixed bits of the form. -/
def Instr.mask : Instr → Word
  | .cls => 0xFFFF#16
  | .ret => 0xFFFF#16
  | .sys _ => 0xF000#16
  | .jp _ => 0xF000#16
  | .call _ => 0xF000#16
  | .seVxKk _ _ => 0xF000#16
  | .sneVxKk _ _ => 0xF000#16
  | .seVxVy _ _ => 0xF00F#16
  | .ldVxKk _ _ => 0xF000#16
  | .addVxKk _ _ => 0xF000#16
  | .ldVxVy _ _ => 0xF00F#16
  | .orVxVy _ _ => 0xF00F#16
  | .andVxVy _ _ => 0xF00F#16
  | .xorVxVy _ _ => 0xF00F#16
  | .addVxVy _ _ => 0xF00F#16
  | .subVxVy _ _ => 0xF00F#16
  | .shrVx _ _ => 0xF00F#16
  | .subnVxVy _ _ => 0xF00F#16
  | .shlVx _ _ => 0xF00F#16
  | .sneVxVy _ _ => 0xF00F#16
  | .ldINnn _ => 0xF000#16
  | .jpV0Nnn _ => 0xF000#16
  | .rndVxKk _ _ => 0xF000#16
  | .drw _ _ _ => 0xF000#16
  | .skpVx _ => 0xF0FF#16
  | .sknpVx _ => 0xF0FF#16
  | .ldVxDt _ => 0xF0FF#16
  | .ldVxK _ => 0xF0FF#16
  | .ldDtVx _ => 0xF0FF#16
  | .ldStVx _ => 0xF0FF#16
  | .addIVx _ => 0xF0FF#16
  | .ldFVx _ => 0xF0FF#16
  | .ldBVx _ => 0xF0FF#16
  | .ldMemVx _ => 0xF0FF#16
  | .ldVxMem _ => 0xF0FF#16

/-- The `match` column of R86: the values of the fixed bits of the form. -/
def Instr.pattern : Instr → Word
  | .cls => 0x00E0#16
  | .ret => 0x00EE#16
  | .sys _ => 0x0000#16
  | .jp _ => 0x1000#16
  | .call _ => 0x2000#16
  | .seVxKk _ _ => 0x3000#16
  | .sneVxKk _ _ => 0x4000#16
  | .seVxVy _ _ => 0x5000#16
  | .ldVxKk _ _ => 0x6000#16
  | .addVxKk _ _ => 0x7000#16
  | .ldVxVy _ _ => 0x8000#16
  | .orVxVy _ _ => 0x8001#16
  | .andVxVy _ _ => 0x8002#16
  | .xorVxVy _ _ => 0x8003#16
  | .addVxVy _ _ => 0x8004#16
  | .subVxVy _ _ => 0x8005#16
  | .shrVx _ _ => 0x8006#16
  | .subnVxVy _ _ => 0x8007#16
  | .shlVx _ _ => 0x800E#16
  | .sneVxVy _ _ => 0x9000#16
  | .ldINnn _ => 0xA000#16
  | .jpV0Nnn _ => 0xB000#16
  | .rndVxKk _ _ => 0xC000#16
  | .drw _ _ _ => 0xD000#16
  | .skpVx _ => 0xE09E#16
  | .sknpVx _ => 0xE0A1#16
  | .ldVxDt _ => 0xF007#16
  | .ldVxK _ => 0xF00A#16
  | .ldDtVx _ => 0xF015#16
  | .ldStVx _ => 0xF018#16
  | .addIVx _ => 0xF01E#16
  | .ldFVx _ => 0xF029#16
  | .ldBVx _ => 0xF033#16
  | .ldMemVx _ => 0xF055#16
  | .ldVxMem _ => 0xF065#16

/-- The side-effect class of a form (R92, the `effect` column of R86). -/
def Instr.sideEffect : Instr → SideEffect
  | .cls => .needsScreenRedraw
  | .ret => .noEffect
  | .sys _ => .noEffect
  | .jp _ => .noEffect
  | .call _ => .noEffect
  | .seVxKk _ _ => .noEffect
  | .sneVxKk _ _ => .noEffect
  | .seVxVy _ _ => .noEffect
  | .ldVxKk _ _ => .noEffect
  | .addVxKk _ _ => .noEffect
  | .ldVxVy _ _ => .noEffect
  | .orVxVy _ _ => .noEffect
  | .andVxVy _ _ => .noEffect
  | .xorVxVy _ _ => .noEffect
  | .addVxVy _ _ => .noEffect
  | .subVxVy _ _ => .noEffect
  | .shrVx _ _ => .noEffect
  | .subnVxVy _ _ => .noEffect
  | .shlVx _ _ => .noEffect
  | .sneVxVy _ _ => .noEffect
  | .ldINnn _ => .noEffect
  | .jpV0Nnn _ => .noEffect
  | .rndVxKk _ _ => .noEffect
  | .drw _ _ _ => .needsScreenRedraw
  | .skpVx _ => .needsKeyState
  | .sknpVx _ => .needsKeyState
  | .ldVxDt _ => .noEffect
  | .ldVxK _ => .blocksOnKey
  | .ldDtVx _ => .noEffect
  | .ldStVx _ => .affectsSound
  | .addIVx _ => .noEffect
  | .ldFVx _ => .noEffect
  | .ldBVx _ => .noEffect
  | .ldMemVx _ => .noEffect
  | .ldVxMem _ => .noEffect

end Sys2Proof
end

