-- ==== Sys2Proof/Config.lean ====
section
/-! DEFINITION. The implementation parameters of `00_scope.md` rule R6: the fixed sizes, and the values the spec
leaves open. (The default of the parameter `FONT` is in Machine/Font.lean.) -/

namespace Sys2Proof

/-- What executing `SYS` does: the parameter `SYS_BEHAVIOUR` (`00_scope.md` R6, `41_control_flow.md` R140). -/
inductive SysBehaviour where
  /-- `FAULT`, the spec's default: `SYS` raises `SYS_UNMODELLED`. -/
  | fault
  /-- `NOP`: `SYS` changes no state. -/
  | nop
  deriving DecidableEq, Repr

/-- `MEM_SIZE` (R6): addresses 0x0000 to 0xFFFF. -/
def Config.memSize : Nat := 65536

/-- `STACK_CAP` (R6). -/
def Config.stackCap : Nat := 16

/-- `SCREEN_W` (R6). -/
def Config.screenWidth : Nat := 64

/-- `SCREEN_H` (R6). -/
def Config.screenHeight : Nat := 32

/-- `NUM_KEYS` (R6). -/
def Config.numKeys : Nat := 16

/-- `NO_KEY` (R6): the sentinel "no key / user quit" of `pressed_key`. -/
def Config.noKey : BitVec 5 := 16#5

/-- `PROGRAM_BASE` (R6). -/
def Config.programBase : Word := 0x200#16

/-- `GLYPH_BYTES` (R6). -/
def Config.glyphBytes : Nat := 5

/-- `FETCHES_PER_TIMER_DECREMENT` (R6, `92_eei_decisions.md` D18): OPEN, an integer ≥ 1. It has no body a proof
could see: a claim about the machine after reset holds for every cadence. A state carries its own cadence in
`params`, so claims over all states range over all cadences (safe, log entry 5). -/
opaque Config.fetchesPerTimerDecrement : ℕ+

/-- The byte of the n-th random draw of `RND` (`42_alu.md` R171, `92_eei_decisions.md` D22): a FREE VALUE, an
opaque constant no proof can evaluate, so a claim admits every byte of every draw (safe, log entry 7). -/
opaque Config.drawnByte : Nat → Byte

end Sys2Proof
end

