-- ==== Sys2Proof/Machine/State.lean ====
section
/-! DEFINITION. The state of the block (`10_state.md`), the reasons a step can stop, and the state after reset
(`70_reset_and_hazards.md` rule R256). State is plain data. -/

namespace Sys2Proof.Machine

/-- The state of the execution state machine, `run_state` (R39, `40_execution_cycle.md` R120). -/
inductive RunState where
  /-- `FETCH`: ready to fetch the instruction at `pc`. -/
  | fetch
  /-- `DECODE`: the instruction buffer holds a fetched word to decode. -/
  | decode
  /-- `EXECUTE`: the instruction buffer holds a decoded instruction to perform. -/
  | execute
  /-- `WAIT_KEY`: the buffer holds `LD Vx, K`; waiting for the front end. -/
  | waitKey
  /-- `FAULTED`: a fatal condition occurred; terminal. -/
  | faulted
  /-- `HALTED`: the front end cancelled a key wait; terminal. -/
  | halted
  deriving DecidableEq, Repr

/-- The kinds of fault (`60_exceptions.md` R227). -/
inductive FaultKind where
  /-- Code 1, raised by the decode step. -/
  | illegalOpcode
  /-- Code 2, raised by `CALL`. -/
  | stackOverflow
  /-- Code 3, raised by `RET`. -/
  | stackUnderflow
  /-- Code 4, raised by `DRW`, `LD B, Vx`, `LD [I], Vx`, `LD Vx, [I]`. -/
  | memoryOutOfBounds
  /-- Code 5, raised by `SKP`, `SKNP`. -/
  | keyIndexOutOfRange
  /-- Code 6, raised by the fetch step. -/
  | fetchOutOfRange
  /-- Code 7, raised by `SYS` when `SYS_BEHAVIOUR` is `FAULT`. -/
  | sysUnmodelled
  deriving DecidableEq, Repr

/-- `fault_info`: the detail of a fault's kind (R226, R227). -/
inductive FaultInfo where
  /-- No detail. -/
  | nothing
  /-- The base address and the length of an out-of-bounds access. -/
  | access (addr : Word) (len : Nat)
  /-- The key index out of range. -/
  | key (k : Byte)
  deriving DecidableEq, Repr

/-- The fault record (R42, `60_exceptions.md` R226). `op` is absent for a fetch fault. -/
structure FaultRecord where
  kind : FaultKind
  pc : Word
  op : Option Word
  info : FaultInfo
  deriving DecidableEq, Repr

/-- The front end's input actions, but for `Reset` (`60_exceptions.md` R243). -/
inductive HostAction where
  /-- `UpdateKeys(b)`: a snapshot of the 16 key flags, in device order. -/
  | updateKeys (b : Vector Bool 16)
  /-- `ResolveKey(k)`, 0 ≤ k ≤ 15. -/
  | resolveKey (k : Nibble)
  /-- `CancelWait`: the user quit. -/
  | cancelWait
  deriving DecidableEq, Repr

/-- The launch parameters a step consults (`00_scope.md` R6). They are configuration, fixed for a run (R45); they
stand in the state because a step has no other argument, and no step changes them (log entry 5). -/
structure Params where
  /-- `FETCHES_PER_TIMER_DECREMENT`, an integer ≥ 1 (D18). -/
  fetchesPerTimerDecrement : Nat
  /-- `SYS_BEHAVIOUR` (D8). -/
  sysBehaviour : SysBehaviour
  deriving DecidableEq, Repr

/-- Memory as the list of the cells that differ from what an unlisted address reads as, by rising address
(R37; the canonical form is `Memory.wf` in Machine/Ops.lean). -/
abbrev Memory := List Host.Cell

/-- The state of the block: every piece of state of `10_state.md`, and two fields of the model's own
(`hostQueue`, `draws`). -/
structure State where
  /-- `V[0]` to `V[15]`; `V[15]` is VF, the flag register (R20 to R25). -/
  v : Vector Byte 16
  /-- `I`, the address register (R30). -/
  i : Word
  /-- `pc`; during DECODE and EXECUTE it is `ib_pc + 2` (R26 to R28). -/
  pc : Word
  /-- The call stack, 0 to 16 return addresses, the top first (R31; log entry 15). -/
  stack : List Word
  /-- `DT`, the delay timer (R32). -/
  dt : Byte
  /-- `ST`, the sound timer (R33). -/
  st : Byte
  /-- `screen`: row `py`, then column `px` as bit `px` of the row; 1 is on (R34; log entry 16). -/
  screen : Vector (BitVec 64) 32
  /-- `keys`: the key flags, true is pressed (R35). -/
  keys : Vector Bool 16
  /-- `pressed_key`: 0 to 15, or 16 for "no key / user quit" (R36). -/
  pressedKey : BitVec 5
  /-- Memory, 65536 bytes (R37). -/
  mem : Memory
  /-- `run_state` (R39). -/
  runState : RunState
  /-- `ib_pc`: the address the buffered word was fetched from (R40). -/
  ibPc : Word
  /-- `ib_op`: the buffered word (R40). -/
  ibOp : Word
  /-- `ib_instr`: the decoded instruction, none before the first decode (R40). -/
  ibInstr : Option Instr
  /-- `effect`: the side-effect output (R41). -/
  effect : SideEffect
  /-- The fault record, none while there was no fault (R42). -/
  faultRecord : Option FaultRecord
  /-- `fetch_count`: successful fetches since the last timer decrement (R43). -/
  fetchCount : Nat
  /-- The launch parameters a step consults (configuration, R6, R45; log entry 5). -/
  params : Params
  /-- THE MODEL'S OWN: the front end's actions still to come, oldest first (R45, R243; log entry 8). -/
  hostQueue : List HostAction
  /-- THE MODEL'S OWN: how many random bytes were drawn (R45, R171; log entry 7). -/
  draws : Nat
  deriving DecidableEq, Repr

/-- Why a step stops without a next state. The spec's own faults are no constructors here: the spec describes the
state they leave, so the step that raises one answers that state (`State.raise`, log entry 9). -/
inductive Fault where
  /-- Answered by a step taken in `FAULTED`, which "takes no further step" (R130, R237). Safe: the spec has no next
  state there. -/
  | stoppedFaulted
  /-- Answered by a step taken in `HALTED`, which is terminal (R130, R251). Safe: the spec has no next state there. -/
  | stoppedHalted
  /-- Answered by a step taken in `EXECUTE` or `WAIT_KEY` with no instruction in the buffer. No run reaches it: DECODE
  fills the buffer first (R128). Safe (log entry 11). -/
  | emptyBuffer
  deriving DecidableEq, Repr

/-- Why an instruction has no outcome. -/
inductive Refusal where
  /-- Answered by an arm of `exec` whose instruction has no meaning yet. Safe. No arm uses it: every instruction is
  modelled. -/
  | notModelled (mnemonic : String)
  deriving DecidableEq, Repr

/-- What a step or an instruction answers. -/
abbrev Result := Host.Outcome State Fault Refusal

/-- The state after reset (`70_reset_and_hazards.md` R255, R256), with no ROM loaded. What the spec leaves to the
launch parameters RESET_V, RESET_I, RESET_DT, RESET_ST, RESET_SCREEN, RESET_KEYS is zero here (DESIGN CHOICE, unsafe,
log entries 2 and 3), as is memory outside the font (log entry 4) and what the empty buffer's `ib_pc` and `ib_op` hold (log
entry 10); the cadence is the opaque Config constant.
`State.resetWith` in Machine/HostInterface.lean is the action `Reset(rom)` for every value of the parameters. -/
def State.reset : State where
  v := Vector.replicate 16 0x00#8
  i := 0x0000#16
  pc := Config.programBase
  stack := []
  dt := 0x00#8
  st := 0x00#8
  screen := Vector.replicate 32 0#64
  keys := Vector.replicate 16 false
  pressedKey := Config.noKey
  mem := []
  runState := .fetch
  ibPc := 0x0000#16
  ibOp := 0x0000#16
  ibInstr := none
  effect := .noEffect
  faultRecord := none
  fetchCount := 0
  params := ⟨Config.fetchesPerTimerDecrement, .fault⟩
  hostQueue := []
  draws := 0

end Sys2Proof.Machine
end

