-- ==== Sys2Proof/Machine/Ops.lean ====
section
/-! DEFINITION. The named operations over memory, registers, the run state and the fault record that every step and
every instruction is written with. -/

namespace Sys2Proof.Machine

/-! ### Memory (`20_memory.md`) -/

/-- What a byte that nothing has written reads as: the font at 0x000–0x04F (R60, `10_state.md` R38) and, where the
spec gives no value (RESET_MEM), 0. DESIGN CHOICE, unsafe (log entry 4). -/
def Memory.unlisted (a : Nat) : Byte := defaultFont.getD a 0x00#8

/-- `Mem[a]`: one byte (`00_scope.md` R11). -/
def Memory.read : Memory → Nat → Byte
  | [], a => Memory.unlisted a
  | (c, b) :: rest, a => if a = c then b else Memory.read rest a

/-- A cell put before a list, but for a cell that reads as an unlisted address does. -/
def Memory.consCell (a : Nat) (b : Byte) (m : Memory) : Memory :=
  if b = Memory.unlisted a then m else (a, b) :: m

/-- `Mem[a] <- b`: one byte. The list keeps its canonical form. -/
def Memory.write : Memory → Nat → Byte → Memory
  | [], a, b => Memory.consCell a b []
  | (c, d) :: rest, a, b =>
    if a < c then Memory.consCell a b ((c, d) :: rest)
    else if a = c then Memory.consCell a b rest
    else (c, d) :: Memory.write rest a b

/-- `MemRead(a, n)`: the bytes at a, a + 1, …, a + n - 1 (`00_scope.md` R11). -/
def Memory.readBytes (m : Memory) (a : Nat) : Nat → List Byte
  | 0 => []
  | n + 1 => Memory.read m a :: Memory.readBytes m (a + 1) n

/-- `MemWrite(a, n, b)`: the bytes of the list at a, a + 1, … in ascending order (`00_scope.md` R11). -/
def Memory.writeBytes (m : Memory) (a : Nat) : List Byte → Memory
  | [] => m
  | b :: rest => Memory.writeBytes (Memory.write m a b) (a + 1) rest

/-- All addresses of a list of cells are above `lo`. -/
def Memory.above (lo : Nat) (m : Memory) : Bool := m.all fun c => decide (lo < c.1)

/-- The canonical form of memory: addresses strictly rising and inside the address space (R50), and no cell equal to
what an unlisted address reads as. So equal memories are equal lists. -/
def Memory.wf : Memory → Bool
  | [] => true
  | (a, b) :: rest =>
    decide (a < Config.memSize) && decide (b ≠ Memory.unlisted a) && Memory.above a rest && Memory.wf rest

/-- The bounds check of an access of `n` bytes from `a`: `a + n ≤ 65536`, never wrapped (R55, R64). -/
def inBounds (a : Word) (n : Nat) : Bool := decide (a.toNat + n ≤ Config.memSize)

/-! ### Registers (`10_state.md`) -/

/-- `V[x]` (R20, R80). -/
def State.reg (s : State) (x : Nibble) : Byte := s.v[x.toNat]'x.isLt

/-- `V[x] <- b` (R21: a write stores exactly the value). -/
def State.setReg (s : State) (x : Nibble) (b : Byte) : State := { s with v := s.v.set x.toNat b x.isLt }

/-- `V[15] <- b`: VF, written as a flag (R24). -/
def State.setVF (s : State) (b : Byte) : State := State.setReg s 0xF#4 b

/-- `I <- a`. -/
def State.setI (s : State) (a : Word) : State := { s with i := a }

/-- `pc <- a`: no instruction checks its target (R28). -/
def State.setPc (s : State) (a : Word) : State := { s with pc := a }

/-- `V[k] <- b[0]`, `V[k+1] <- b[1]`, …: the registers a block load writes (R205). -/
def writeRegs (v : Vector Byte 16) (k : Nat) : List Byte → Vector Byte 16
  | [] => v
  | b :: rest => writeRegs (v.setIfInBounds k b) (k + 1) rest

/-- The values of `V[0]` to `V[x]`, in that order (R204). -/
def State.regsUpTo (s : State) (x : Nibble) : List Byte := s.v.toList.take (x.toNat + 1)

/-- Passing over the next instruction: `pc <- pc + 2` modulo 2^16 (R28, R149). -/
def State.skipIf (s : State) (c : Bool) : State := if c then State.setPc s (s.pc + 2#16) else s

/-! ### The screen (`10_state.md` R34) -/

/-- `screen[py][px]`: row `py`, column `px`; off outside 64 × 32. -/
def pixel (screen : Vector (BitVec 64) 32) (py px : Nat) : Bool := (screen[py]?.getD 0#64).getLsbD px

/-- `screen[py][px] <- screen[py][px] ^ 1`. -/
def flipPixel (screen : Vector (BitVec 64) 32) (py px : Nat) : Vector (BitVec 64) 32 :=
  screen.setIfInBounds py ((screen[py]?.getD 0#64) ^^^ BitVec.twoPow 64 px)

/-! ### Ending a step (`00_scope.md` R12, `40_execution_cycle.md` R127, `60_exceptions.md` R225, R236) -/

/-- TAKING A FAULT: "the state after a fault is the state before the faulting step, plus the fault record and
run_state = FAULTED" (R236, R42). There is no handler, no saved context and no return (R225). -/
def State.enterFault (s : State) (r : FaultRecord) : State := { s with runState := .faulted, faultRecord := some r }

/-- `raise Fault(kind, info)` in DECODE and EXECUTE: `fault_pc = ib_pc`, `fault_op = ib_op` (R12, R226). -/
def State.raise (s : State) (kind : FaultKind) (info : FaultInfo) : State :=
  State.enterFault s ⟨kind, s.ibPc, some s.ibOp, info⟩

/-- An instruction that raises a fault. -/
def faults (s : State) (kind : FaultKind) (info : FaultInfo) : Result := .next (State.raise s kind info)

/-- `run_state <- FETCH` (R127). -/
def State.toFetch (s : State) : State := { s with runState := .fetch }

/-- An instruction that completes (R127). -/
def completes (s : State) : Result := .next (State.toFetch s)

/-! ### The key wait and the front end's queue (`44_keypad.md` R192, `60_exceptions.md` R243 to R245) -/

/-- `UpdateKeys(b)`: `keys[k] <- b[k]` for all k (R243). -/
def State.updateKeys (s : State) (b : Vector Bool 16) : State := { s with keys := b }

/-- `ResolveKey(k)` for a wait of `LD Vx, K`: `pressed_key <- k`, `V[x] <- pressed_key`, `run_state <- FETCH` (R192). -/
def State.deliverKey (s : State) (x k : Nibble) : State :=
  { State.setReg { s with pressedKey := k.setWidth 5 } x (k.setWidth 8) with runState := .fetch }

/-- `CancelWait`: `pressed_key <- 16`, `run_state <- HALTED`, no register written (R192). -/
def State.cancelWait (s : State) : State := { s with pressedKey := Config.noKey, runState := .halted }

/-- The front end's turn between DECODE and EXECUTE of an instruction that needs the key flags: if its next action is
an `UpdateKeys`, it performs it (R244). Otherwise the flags last written stay (R244, U14). One update is taken a turn;
a front end that leaves the flags alone now and updates them later queues the present flags (log entry 8). -/
def State.hostTurn (s : State) : State :=
  if s.effect = .needsKeyState then
    match s.hostQueue with
    | .updateKeys b :: rest => { State.updateKeys s b with hostQueue := rest }
    | .resolveKey _ :: _ => s
    | .cancelWait :: _ => s
    | [] => s
  else s

end Sys2Proof.Machine
end

