-- ==== Sys2Proof/Machine/Flags.lean ====
section
/-! DEFINITION. The flags: VF is written by the arithmetic and shift forms and by `DRW`, always with 0 or 1
(`10_state.md` rule R24, `42_alu.md` rules R172, R173). -/

namespace Sys2Proof.Machine

/-- A flag's value as VF takes it. -/
def flagByte (c : Bool) : Byte := if c then 0x01#8 else 0x00#8

/-- Carry of `ADD Vx, Vy`: the unsigned sum exceeds 0xFF (R166). -/
def carryOut (a b : Byte) : Byte := flagByte (decide (0xFF < a.toNat + b.toNat))

/-- Not-borrow of `a - b`: `a > b` strictly, so 0 on equal operands (R167, R169). -/
def notBorrow (a b : Byte) : Byte := flagByte (decide (b.toNat < a.toNat))

/-- The bit `SHR` shifts out: bit 0 (R168). -/
def lowBit (a : Byte) : Byte := flagByte (a.getLsbD 0)

/-- The bit `SHL` shifts out: bit 7 (R170). -/
def highBit (a : Byte) : Byte := flagByte (a.getLsbD 7)

/-- The result to `V[x]` first, the flag to VF last: with x = 15 VF ends holding the flag (R173). -/
def State.writeWithFlag (s : State) (x : Nibble) (result flag : Byte) : State :=
  State.setVF (State.setReg s x result) flag

end Sys2Proof.Machine
end

