-- ==== Sys2Proof/Machine/Operands.lean ====
section
/-! DEFINITION. Operand assembly: how immediates, registers and the I-relative addressing mode give values
(`30_encoding.md` rules R79, R80, `45_index_memory.md`). -/

namespace Sys2Proof.Machine

/-- `zext_16(nnn)`: an address operand as `pc` or `I` takes it (R79). -/
def zextAddr (nnn : Addr) : Word := nnn.setWidth 16

/-- `zext_16(b)`: a register's value added to `pc` or `I` (R144, R201, R202). -/
def zextByte (b : Byte) : Word := b.setWidth 16

/-- The number of registers `V[0]` to `V[x]`, the length of a block move (R204, R205). -/
def blockLen (x : Nibble) : Nat := x.toNat + 1

/-- The decimal digits of a byte: hundreds, tens, ones (R203). -/
def decimalDigits (b : Byte) : List Byte :=
  [BitVec.ofNat 8 (b.toNat / 100), BitVec.ofNat 8 (b.toNat / 10 % 10), BitVec.ofNat 8 (b.toNat % 10)]

/-- The address of a digit's glyph: five bytes each from the font's base 0, the value used in full (R202). -/
def glyphAddr (b : Byte) : Word := zextByte b * 5#16

/-- The key flag a key index names, if it names one: the index is used in full (R190, R193). -/
def State.keyFlag? (s : State) (k : Byte) : Option Bool := s.keys[k.toNat]?

/-- `MemRead(I, n)`: the bytes of an I-relative access; `I` stays as it is (R182, R205). -/
def State.loadBytes (s : State) (n : Nat) : List Byte := Memory.readBytes s.mem s.i.toNat n

/-- `MemWrite(I, …)`: an I-relative store; `I` stays as it is (R203, R204). -/
def State.storeBytes (s : State) (bs : List Byte) : State :=
  { s with mem := Memory.writeBytes s.mem s.i.toNat bs }

end Sys2Proof.Machine
end

