-- ==== Sys2Proof/Machine/Alu.lean ====
section
/-! DEFINITION. Register arithmetic and logic (`42_alu.md` rules R160 to R173). Results wrap modulo 256; none of these
forms touches memory or faults. -/

namespace Sys2Proof.Machine

/-- `LD Vx, kk` (R160): `V[x] <- kk`. -/
def execLdVxKk (x : Nibble) (kk : Byte) (s : State) : Result := completes (State.setReg s x kk)

/-- `ADD Vx, kk` (R161): `V[x] <- (V[x] + kk) mod 256`, no flag. -/
def execAddVxKk (x : Nibble) (kk : Byte) (s : State) : Result :=
  completes (State.setReg s x (State.reg s x + kk))

/-- `LD Vx, Vy` (R162): `V[x] <- V[y]`. -/
def execLdVxVy (x y : Nibble) (s : State) : Result := completes (State.setReg s x (State.reg s y))

/-- `OR Vx, Vy` (R163), no flag. -/
def execOrVxVy (x y : Nibble) (s : State) : Result :=
  completes (State.setReg s x (State.reg s x ||| State.reg s y))

/-- `AND Vx, Vy` (R164), no flag. -/
def execAndVxVy (x y : Nibble) (s : State) : Result :=
  completes (State.setReg s x (State.reg s x &&& State.reg s y))

/-- `XOR Vx, Vy` (R165), no flag. -/
def execXorVxVy (x y : Nibble) (s : State) : Result :=
  completes (State.setReg s x (State.reg s x ^^^ State.reg s y))

/-- `ADD Vx, Vy` (R166): the sum modulo 256, VF = carry. -/
def execAddVxVy (x y : Nibble) (s : State) : Result :=
  completes (State.writeWithFlag s x (State.reg s x + State.reg s y) (carryOut (State.reg s x) (State.reg s y)))

/-- `SUB Vx, Vy` (R167): `V[x] - V[y]` modulo 256, VF = 1 if `V[x] > V[y]`. -/
def execSubVxVy (x y : Nibble) (s : State) : Result :=
  completes (State.writeWithFlag s x (State.reg s x - State.reg s y) (notBorrow (State.reg s x) (State.reg s y)))

/-- `SHR Vx` (R168): `V[x] >> 1`, VF = the bit shifted out; `y` is ignored (R81). -/
def execShrVx (x _y : Nibble) (s : State) : Result :=
  completes (State.writeWithFlag s x (State.reg s x >>> 1) (lowBit (State.reg s x)))

/-- `SUBN Vx, Vy` (R169): `V[y] - V[x]` modulo 256, VF = 1 if `V[y] > V[x]`. -/
def execSubnVxVy (x y : Nibble) (s : State) : Result :=
  completes (State.writeWithFlag s x (State.reg s y - State.reg s x) (notBorrow (State.reg s y) (State.reg s x)))

/-- `SHL Vx` (R170): `(V[x] << 1) mod 256`, VF = the bit shifted out; `y` is ignored (R81). -/
def execShlVx (x _y : Nibble) (s : State) : Result :=
  completes (State.writeWithFlag s x (State.reg s x <<< 1) (highBit (State.reg s x)))

/-- `RND Vx, kk` (R171) on a drawn byte: `V[x] <- r & kk`; the next draw is another one. -/
def randomByte (x : Nibble) (kk r : Byte) (s : State) : State :=
  { State.setReg s x (r &&& kk) with draws := s.draws + 1 }

/-- `RND Vx, kk` (R171): the drawn byte is a free value (`Config.drawnByte`, log entry 7). -/
def execRndVxKk (x : Nibble) (kk : Byte) (s : State) : Result :=
  completes (randomByte x kk (Config.drawnByte s.draws) s)

end Sys2Proof.Machine
end

