-- ==== Sys2Proof/Machine/Control.lean ====
section
/-! DEFINITION. Control transfer (`41_control_flow.md` rules R140 to R151). `pc` already holds `ib_pc + 2` (R124); no
instruction checks its target (R151); a skip passes over one word (R149). -/

namespace Sys2Proof.Machine

/-- `SYS nnn` (R140): raises SYS_UNMODELLED when SYS_BEHAVIOUR is FAULT, changes no state when it is NOP; the address
is not used. -/
def execSys (_nnn : Addr) (s : State) : Result :=
  match s.params.sysBehaviour with
  | .fault => faults s .sysUnmodelled .nothing
  | .nop => completes s

/-- `RET` (R141, R230): `pc <- Pop()`; an empty stack faults. -/
def execRet (s : State) : Result :=
  match s.stack with
  | [] => faults s .stackUnderflow .nothing
  | a :: rest => completes { State.setPc s a with stack := rest }

/-- `CALL nnn` (R142, R229): `Push(pc)`, `pc <- zext_16(nnn)`; a stack of 16 entries faults. -/
def execCall (nnn : Addr) (s : State) : Result :=
  if Config.stackCap ≤ s.stack.length then faults s .stackOverflow .nothing
  else completes { State.setPc s (zextAddr nnn) with stack := s.pc :: s.stack }

/-- `JP nnn` (R143): `pc <- zext_16(nnn)`. -/
def execJp (nnn : Addr) (s : State) : Result := completes (State.setPc s (zextAddr nnn))

/-- `JP V0, nnn` (R144): `pc <- zext_16(nnn) + zext_16(V[0])`. -/
def execJpV0Nnn (nnn : Addr) (s : State) : Result :=
  completes (State.setPc s (zextAddr nnn + zextByte (State.reg s 0x0#4)))

/-- `SE Vx, kk` (R145): skip if `V[x] = kk`. -/
def execSeVxKk (x : Nibble) (kk : Byte) (s : State) : Result :=
  completes (State.skipIf s (decide (State.reg s x = kk)))

/-- `SNE Vx, kk` (R146): skip if `V[x] ≠ kk`. -/
def execSneVxKk (x : Nibble) (kk : Byte) (s : State) : Result :=
  completes (State.skipIf s (decide (State.reg s x ≠ kk)))

/-- `SE Vx, Vy` (R147): skip if `V[x] = V[y]`. -/
def execSeVxVy (x y : Nibble) (s : State) : Result :=
  completes (State.skipIf s (decide (State.reg s x = State.reg s y)))

/-- `SNE Vx, Vy` (R148): skip if `V[x] ≠ V[y]`. -/
def execSneVxVy (x y : Nibble) (s : State) : Result :=
  completes (State.skipIf s (decide (State.reg s x ≠ State.reg s y)))

end Sys2Proof.Machine
end

