-- ==== Sys2Proof/Machine/Display.lean ====
section
/-! DEFINITION. The display (`43_display.md` rules R180 to R184): `CLS` and `DRW`. -/

namespace Sys2Proof.Machine

/-- What a sprite blit works on: the screen, and whether a pixel that was on was turned off so far (`f` of R181). -/
structure Canvas where
  screen : Vector (BitVec 64) 32
  hit : Bool
  deriving DecidableEq, Repr

/-- One set bit of a sprite, drawn at (px, py): the collision is noted, then the pixel flips (R181). -/
def plot (px py : Nat) (cv : Canvas) : Canvas where
  screen := flipPixel cv.screen py px
  hit := cv.hit || pixel cv.screen py px

/-- Bit `7 - c` of sprite row `r`: a set bit is drawn at column `(cx + c) mod 64`, row `(cy + r) mod 32` (R181, R182). -/
def drawBit (cx cy : Byte) (r : Nat) (row : Byte) (cv : Canvas) (c : Nat) : Canvas :=
  if row.getLsbD (7 - c) then
    plot ((cx.toNat + c) % Config.screenWidth) ((cy.toNat + r) % Config.screenHeight) cv
  else cv

/-- Sprite row `r`: its eight bits from the left (R181). -/
def drawRow (cx cy : Byte) (r : Nat) (row : Byte) (cv : Canvas) : Canvas :=
  [0, 1, 2, 3, 4, 5, 6, 7].foldl (drawBit cx cy r row) cv

/-- The rows of a sprite from row `r` on (R181). -/
def drawRows (cx cy : Byte) (r : Nat) (rows : List Byte) (cv : Canvas) : Canvas :=
  match rows with
  | [] => cv
  | row :: rest => drawRows cx cy (r + 1) rest (drawRow cx cy r row cv)

/-- `CLS` (R180): every pixel off. -/
def execCls (s : State) : Result := completes { s with screen := Vector.replicate 32 0#64 }

/-- `DRW Vx, Vy, n` (R181, R231): the n bytes at `I` are XORed onto the screen at column `V[x]`, row `V[y]`, VF = 1 if
a pixel that was on was turned off. An access beyond 0xFFFF faults and draws nothing. The coordinates are read before
VF is written. -/
def execDrw (x y n : Nibble) (s : State) : Result :=
  if inBounds s.i n.toNat then
    let cv := drawRows (State.reg s x) (State.reg s y) 0 (State.loadBytes s n.toNat) ⟨s.screen, false⟩
    completes (State.setVF { s with screen := cv.screen } (flagByte cv.hit))
  else faults s .memoryOutOfBounds (.access s.i n.toNat)

end Sys2Proof.Machine
end

