-- ==== Sys2Proof/Machine/Index.lean ====
section
/-! DEFINITION. The index register and memory (`45_index_memory.md` rules R200 to R206). Every access is I-relative,
checked in full before a byte moves, never wrapped (`20_memory.md` R55, R56); no access changes `I`. -/

namespace Sys2Proof.Machine

/-- `LD I, nnn` (R200): `I <- zext_16(nnn)`. -/
def execLdINnn (nnn : Addr) (s : State) : Result := completes (State.setI s (zextAddr nnn))

/-- `ADD I, Vx` (R201): 16-bit wrapping add, no flag. -/
def execAddIVx (x : Nibble) (s : State) : Result :=
  completes (State.setI s (s.i + zextByte (State.reg s x)))

/-- `LD F, Vx` (R202): `I <- V[x] × 5`, the value used in full. -/
def execLdFVx (x : Nibble) (s : State) : Result := completes (State.setI s (glyphAddr (State.reg s x)))

/-- `LD B, Vx` (R203, R231): the decimal digits of `V[x]` to the three bytes at `I`. -/
def execLdBVx (x : Nibble) (s : State) : Result :=
  if inBounds s.i 3 then completes (State.storeBytes s (decimalDigits (State.reg s x)))
  else faults s .memoryOutOfBounds (.access s.i 3)

/-- `LD [I], Vx` (R204, R231): `V[0]` to `V[x]` to the bytes at `I`. -/
def execLdMemVx (x : Nibble) (s : State) : Result :=
  if inBounds s.i (blockLen x) then completes (State.storeBytes s (State.regsUpTo s x))
  else faults s .memoryOutOfBounds (.access s.i (blockLen x))

/-- `LD Vx, [I]` (R205, R231): the bytes at `I` to `V[0]` to `V[x]`. -/
def execLdVxMem (x : Nibble) (s : State) : Result :=
  if inBounds s.i (blockLen x) then completes { s with v := writeRegs s.v 0 (State.loadBytes s (blockLen x)) }
  else faults s .memoryOutOfBounds (.access s.i (blockLen x))

end Sys2Proof.Machine
end

