-- ==== Sys2Proof/Machine/Keypad.lean ====
section
/-! DEFINITION. The keypad (`44_keypad.md` rules R190 to R193). -/

namespace Sys2Proof.Machine

/-- `SKP Vx` (R190, R232): skip if the key `V[x]` is pressed; an index of 16 or more faults. -/
def execSkpVx (x : Nibble) (s : State) : Result :=
  match State.keyFlag? s (State.reg s x) with
  | some pressed => completes (State.skipIf s pressed)
  | none => faults s .keyIndexOutOfRange (.key (State.reg s x))

/-- `SKNP Vx` (R191, R232): skip if the key `V[x]` is not pressed; an index of 16 or more faults. -/
def execSknpVx (x : Nibble) (s : State) : Result :=
  match State.keyFlag? s (State.reg s x) with
  | some pressed => completes (State.skipIf s (!pressed))
  | none => faults s .keyIndexOutOfRange (.key (State.reg s x))

/-- `LD Vx, K` (R192, R129, R245) in WAIT_KEY: the front end's next action, taken from its queue, ends the wait
(`ResolveKey`, `CancelWait`) or updates the key flags and leaves the block waiting; with none queued the block goes on
waiting (log entry 8). -/
def execLdVxK (x : Nibble) (s : State) : Result :=
  match s.hostQueue with
  | [] => .next { s with runState := .waitKey }
  | .updateKeys b :: rest => .next { State.updateKeys s b with runState := .waitKey, hostQueue := rest }
  | .resolveKey k :: rest => .next (State.deliverKey { s with hostQueue := rest } x k)
  | .cancelWait :: rest => .next (State.cancelWait { s with hostQueue := rest })

end Sys2Proof.Machine
end

