-- ==== Sys2Proof/Machine/Timers.lean ====
section
/-! DEFINITION. The timers (`46_timers.md` rules R215 to R219); they count down in the fetch step
(`40_execution_cycle.md` R125). -/

namespace Sys2Proof.Machine

/-- `LD Vx, DT` (R215): `V[x] <- DT`. -/
def execLdVxDt (x : Nibble) (s : State) : Result := completes (State.setReg s x s.dt)

/-- `LD DT, Vx` (R216): `DT <- V[x]`; `fetch_count` stays. -/
def execLdDtVx (x : Nibble) (s : State) : Result := completes { s with dt := State.reg s x }

/-- `LD ST, Vx` (R217): `ST <- V[x]`. -/
def execLdStVx (x : Nibble) (s : State) : Result := completes { s with st := State.reg s x }

/-- The sound output: `sound_on = (ST > 0)` (R218). -/
def State.soundOn (s : State) : Bool := decide (0 < s.st.toNat)

end Sys2Proof.Machine
end

