-- ==== Sys2Proof/Machine/Cycle.lean ====
section
/-! DEFINITION. The execution cycle (`40_execution_cycle.md`): the FETCH, DECODE and EXECUTE transitions of the state
machine, the timer prescaler, and the fusion of an instruction's transitions into one step (R133). -/

namespace Sys2Proof.Machine

/-! ### FETCH (R122 to R125) -/

/-- The fetch check: `pc` even and 0x200 ≤ pc ≤ 0xFFFE (R123, `20_memory.md` R57). -/
def fetchable (pc : Word) : Bool :=
  decide (pc.toNat % 2 = 0) && decide (0x200 ≤ pc.toNat) && decide (pc.toNat ≤ 0xFFFE)

/-- `Mem[pc] ++ Mem[pc + 1]`, big-endian (R52, R122). -/
def fetchWord (m : Memory) (pc : Word) : Word :=
  wordOfBytes (Memory.read m pc.toNat) (Memory.read m (pc.toNat + 1))

/-- A timer on a fetch: down by 1 when a decrement is due, a timer at 0 stays at 0 (R125). -/
def countDown (due : Bool) (t : Byte) : Byte :=
  if t = 0x00#8 then t else if due then t - 0x01#8 else t

/-- Whether this fetch decrements the timers: it makes `fetch_count` reach the cadence (R125). -/
def State.tickDue (s : State) : Bool := decide (s.fetchCount + 1 = s.params.fetchesPerTimerDecrement)

/-- `TimerTick()` (R125): both timers fall on the same fetch. -/
def State.timerTick (s : State) : State :=
  { s with
    fetchCount := if State.tickDue s then 0 else s.fetchCount + 1
    dt := countDown (State.tickDue s) s.dt
    st := countDown (State.tickDue s) s.st }

/-- The FETCH step (R122). A bad `pc` faults with `fault_pc = pc` and no opcode, and changes nothing else (R123). -/
def fetchStep (s : State) : State :=
  if fetchable s.pc then
    State.timerTick
      { s with ibPc := s.pc, ibOp := fetchWord s.mem s.pc, pc := s.pc + 2#16, runState := .decode }
  else State.enterFault s ⟨.fetchOutOfRange, s.pc, none, .nothing⟩

/-! ### DECODE (R126) -/

/-- A decoded instruction put in the buffer: its effect class is set, and `LD Vx, K`, the one form that blocks on a
key (R92), waits instead of executing (R126). -/
def State.buffer (s : State) (i : Instr) : State :=
  { s with
    ibInstr := some i
    effect := i.sideEffect
    runState := if i.sideEffect = .blocksOnKey then .waitKey else .execute }

/-- The DECODE step (R126): an illegal word faults (R228). -/
def decodeStep (s : State) : State :=
  match decode s.ibOp with
  | .instr i => State.buffer s i
  | .illegal => State.raise s .illegalOpcode .nothing
  | .truncated => State.raise s .illegalOpcode .nothing

/-! ### EXECUTE and WAIT_KEY (R127 to R129) -/

/-- The instruction in the buffer is performed (R127, R128). An empty buffer is no state of a run (log entry 11). -/
def runBuffered (s : State) : Result :=
  match s.ibInstr with
  | some i => exec i s
  | none => .fault .emptyBuffer

/-- The EXECUTE step, after the front end's turn where the instruction needs the key flags (R127, R133, R244). -/
def executeStep (s : State) : Result := runBuffered (State.hostTurn s)

/-! ### The state machine (R120, R121) and its fusion (R133) -/

/-- One transition of the state machine (R120, R121). In WAIT_KEY it is the front end's next action (R129). -/
def transition (s : State) : Result :=
  match s.runState with
  | .fetch => .next (fetchStep s)
  | .decode => .next (decodeStep s)
  | .execute => executeStep s
  | .waitKey => runBuffered s
  | .faulted => .fault .stoppedFaulted
  | .halted => .fault .stoppedHalted

/-- After the DECODE step: an instruction to execute is executed in the same step; a key wait stays a state of its own
and a fault ends the step (R133, log entry 1). -/
def afterDecode (s : State) : Result :=
  match s.runState with
  | .execute => executeStep s
  | .fetch => .next s
  | .decode => .next s
  | .waitKey => .next s
  | .faulted => .next s
  | .halted => .next s

/-- After the FETCH step: a fetched word is decoded in the same step; a fault ends the step. -/
def afterFetch (s : State) : Result :=
  match s.runState with
  | .decode => afterDecode (decodeStep s)
  | .fetch => .next s
  | .execute => .next s
  | .waitKey => .next s
  | .faulted => .next s
  | .halted => .next s

/-- One instruction: the transitions FETCH, DECODE and EXECUTE of one instruction fused (R133, log entry 1). In WAIT_KEY
the front end's next action, in FAULTED and HALTED no step (R130). -/
def cycle (s : State) : Result :=
  match s.runState with
  | .fetch => afterFetch (fetchStep s)
  | .decode => afterDecode (decodeStep s)
  | .execute => executeStep s
  | .waitKey => runBuffered s
  | .faulted => .fault .stoppedFaulted
  | .halted => .fault .stoppedHalted

/-- Where a word is placed for the next fetch: at `pc`, or at 0x200 if nothing can be fetched at `pc` (R57). -/
def State.fetchAddr (s : State) : Word := if fetchable s.pc then s.pc else Config.programBase

/-- A word put where the next fetch reads it, its high byte at the lower address (R52), and the block ready to fetch
it (log entry 12). -/
def State.placeWord (s : State) (w : Word) : State :=
  { s with
    mem := Memory.writeBytes s.mem (State.fetchAddr s).toNat (bytesOfWord w)
    pc := State.fetchAddr s
    runState := .fetch }

end Sys2Proof.Machine
end

