-- ==== Sys2Proof/Machine/Step.lean ====
section
/-! DEFINITION. The machine's step, and placing an instruction where the step fetches. -/

namespace Sys2Proof.Machine

/-- One step of the machine: one instruction, or in WAIT_KEY the front end's next action (`cycle`). -/
def step (s : State) : Host.Outcome State Fault Refusal := cycle s

/-- `s` with the instruction of word `w` (bits above `nbits` zero) stored where the next fetch reads
(`State.placeWord`: at `pc`, or at 0x200 if `pc` cannot be fetched from) and the block ready to fetch it. -/
def State.withFetchWord (s : State) (nbits w : Nat) : State :=
  State.placeWord s (BitVec.ofNat 16 (w % 2 ^ nbits))

end Sys2Proof.Machine
end

