-- ==== Sys2Proof/Machine/Assembler.lean ====
section
/-! DEFINITION. The textual form of programs (`30_encoding.md` rules R104 to R118): tokens, labels, operand shapes, the
pseudo-instructions `.word` and extended `LD I`, the two passes, and the canonical text of an instruction. It is
software around the block (`00_scope.md` R5 (e)): no step of the machine uses it. Text is a list of characters; the
wording and layout of diagnostics are out of scope, their reasons are not (log entry 13). -/

namespace Sys2Proof.Machine

/-- Text. -/
abbrev Text := List Char

/-! ### Canonical text (R111) -/

/-- One uppercase hexadecimal digit. -/
def hexDigit (d : Nibble) : Char := "0123456789ABCDEF".toList.getD d.toNat '0'

/-- A register: `V` and one uppercase hex digit. -/
def regText (x : Nibble) : Text := ['V', hexDigit x]

/-- A nibble operand: `0x` and one digit. -/
def nibbleText (n : Nibble) : Text := ['0', 'x', hexDigit n]

/-- A byte immediate: `0x` and two digits. -/
def byteText (kk : Byte) : Text := ['0', 'x', hexDigit (kk.extractLsb' 4 4), hexDigit (kk.extractLsb' 0 4)]

/-- An address: `0x` and three digits. -/
def addrText (nnn : Addr) : Text :=
  ['0', 'x', hexDigit (nnn.extractLsb' 8 4), hexDigit (nnn.extractLsb' 4 4), hexDigit (nnn.extractLsb' 0 4)]

/-- A `.word` literal: `0x` and four digits. -/
def wordLiteralText (w : Word) : Text :=
  ['0', 'x', hexDigit (opFamily w), hexDigit (opX w), hexDigit (opY w), hexDigit (opN w)]

/-- A mnemonic and one operand. -/
def text1 (m : String) (a : Text) : Text := m.toList ++ ' ' :: a

/-- A mnemonic and two operands, separated by a comma and a space. -/
def text2 (m : String) (a b : Text) : Text := text1 m (a ++ ',' :: ' ' :: b)

/-- A mnemonic and three operands. -/
def text3 (m : String) (a b c : Text) : Text := text2 m a (b ++ ',' :: ' ' :: c)

/-- The canonical text of an instruction, `mnemonic_text()` (R111); the `y` of `SHR` and `SHL` does not show (R118). -/
def instrText : Instr → Text
  | .cls => "CLS".toList
  | .ret => "RET".toList
  | .sys nnn => text1 "SYS" (addrText nnn)
  | .jp nnn => text1 "JP" (addrText nnn)
  | .call nnn => text1 "CALL" (addrText nnn)
  | .seVxKk x kk => text2 "SE" (regText x) (byteText kk)
  | .sneVxKk x kk => text2 "SNE" (regText x) (byteText kk)
  | .seVxVy x y => text2 "SE" (regText x) (regText y)
  | .ldVxKk x kk => text2 "LD" (regText x) (byteText kk)
  | .addVxKk x kk => text2 "ADD" (regText x) (byteText kk)
  | .ldVxVy x y => text2 "LD" (regText x) (regText y)
  | .orVxVy x y => text2 "OR" (regText x) (regText y)
  | .andVxVy x y => text2 "AND" (regText x) (regText y)
  | .xorVxVy x y => text2 "XOR" (regText x) (regText y)
  | .addVxVy x y => text2 "ADD" (regText x) (regText y)
  | .subVxVy x y => text2 "SUB" (regText x) (regText y)
  | .shrVx x _ => text1 "SHR" (regText x)
  | .subnVxVy x y => text2 "SUBN" (regText x) (regText y)
  | .shlVx x _ => text1 "SHL" (regText x)
  | .sneVxVy x y => text2 "SNE" (regText x) (regText y)
  | .ldINnn nnn => text2 "LD" "I".toList (addrText nnn)
  | .jpV0Nnn nnn => text2 "JP" "V0".toList (addrText nnn)
  | .rndVxKk x kk => text2 "RND" (regText x) (byteText kk)
  | .drw x y n => text3 "DRW" (regText x) (regText y) (nibbleText n)
  | .skpVx x => text1 "SKP" (regText x)
  | .sknpVx x => text1 "SKNP" (regText x)
  | .ldVxDt x => text2 "LD" (regText x) "DT".toList
  | .ldVxK x => text2 "LD" (regText x) "K".toList
  | .ldDtVx x => text2 "LD" "DT".toList (regText x)
  | .ldStVx x => text2 "LD" "ST".toList (regText x)
  | .addIVx x => text2 "ADD" "I".toList (regText x)
  | .ldFVx x => text2 "LD" "F".toList (regText x)
  | .ldBVx x => text2 "LD" "B".toList (regText x)
  | .ldMemVx x => text2 "LD" "[I]".toList (regText x)
  | .ldVxMem x => text2 "LD" (regText x) "[I]".toList

/-- The canonical text of `.word` (R111, R113). -/
def wordText (w : Word) : Text := text1 ".word" (wordLiteralText w)

/-! ### Lines and tokens (R104 to R107) -/

/-- The lines of a source text. -/
def splitLines : Text → List Text
  | [] => [[]]
  | c :: rest =>
    if c = '\n' then [] :: splitLines rest
    else match splitLines rest with
      | [] => [[c]]
      | line :: lines => (c :: line) :: lines

/-- A line without its comment: `//` runs to the end of the line (R105). -/
def dropComment : Text → Text
  | '/' :: '/' :: _ => []
  | c :: rest => c :: dropComment rest
  | [] => []

/-- What separates tokens: spaces, tabs and commas (R105). -/
def isSeparator (c : Char) : Bool := c == ' ' || c == '\t' || c == ','

/-- The tokens of a line from `rest` on, `cur` being the token read so far, reversed (R105). -/
def tokensFrom (cur : Text) : Text → List Text
  | [] => if cur.isEmpty then [] else [cur.reverse]
  | c :: rest =>
    if isSeparator c then
      if cur.isEmpty then tokensFrom [] rest else cur.reverse :: tokensFrom [] rest
    else tokensFrom (c :: cur) rest

/-- The tokens of a line (R105). -/
def tokenize (line : Text) : List Text := tokensFrom [] (dropComment line)

/-- The name a line defines, if its only token ends in `:` (R106). -/
def labelOf (tokens : List Text) : Option Text :=
  match tokens with
  | [t] => if t.getLast? = some ':' then some t.dropLast else none
  | _ => none

/-! ### Operands (R108, R109) -/

/-- Why a line assembles to nothing (R117). -/
inductive AsmError where
  /-- An operand of no accepted form, or out of its range. -/
  | malformedOperand
  /-- The mnemonic takes another number of operands. -/
  | wrongOperandCount
  /-- The first token is no mnemonic of R107. -/
  | unknownMnemonic
  /-- A second definition of a label ("repeated", R106). -/
  | repeatedLabel (name : Text)
  /-- A label that is never defined (R116). -/
  | unresolvedSymbol (name : Text)
  /-- A label whose address exceeds 0xFFF, in an address operand (R116). -/
  | labelOutOfReach (name : Text)
  deriving DecidableEq, Repr

/-- The value of a hexadecimal digit, either case. -/
def hexValue (c : Char) : Option Nat :=
  if '0'.toNat ≤ c.toNat ∧ c.toNat ≤ '9'.toNat then some (c.toNat - '0'.toNat)
  else if 'A'.toNat ≤ c.toNat ∧ c.toNat ≤ 'F'.toNat then some (c.toNat - 'A'.toNat + 10)
  else if 'a'.toNat ≤ c.toNat ∧ c.toNat ≤ 'f'.toNat then some (c.toNat - 'a'.toNat + 10)
  else none

/-- The number hexadecimal digits spell after `acc`. -/
def hexFrom (acc : Nat) : Text → Option Nat
  | [] => some acc
  | c :: rest => match hexValue c with
    | some d => hexFrom (16 * acc + d) rest
    | none => none

/-- A literal `0x…` with at least one digit (R109). -/
def literal : Text → Option Nat
  | '0' :: 'x' :: c :: rest => hexFrom 0 (c :: rest)
  | _ => none

/-- Whether a token is written as a literal, so that it is no label. -/
def looksLiteral : Text → Bool
  | '0' :: 'x' :: _ => true
  | _ => false

/-- A literal below a bound (the range checks of R109). -/
def literalBelow (bound : Nat) (t : Text) : Option Nat :=
  match literal t with
  | some v => if v < bound then some v else none
  | none => none

/-- A byte immediate. -/
def byteOperand (t : Text) : Option Byte := (literalBelow 0x100 t).map (BitVec.ofNat 8)

/-- A nibble immediate. -/
def nibbleOperand (t : Text) : Option Nibble := (literalBelow 0x10 t).map (BitVec.ofNat 4)

/-- A register's index: one hex digit, or `10` to `15` in decimal (R108). -/
def regIndex : Text → Option Nat
  | [c] => hexValue c
  | ['1', d] => match hexValue d with
    | some k => if k < 6 then some (10 + k) else none
    | none => none
  | _ => none

/-- A register operand: `V` or `v` and an index below 16 (R108). -/
def regOperand : Text → Option Nibble
  | c :: rest => if c = 'V' ∨ c = 'v' then (regIndex rest).map (BitVec.ofNat 4) else none
  | [] => none

/-- The forms with an address operand, which a label can give (R110, R116). -/
inductive AddrForm where
  | sys
  | jp
  | call
  | ldI
  | jpV0
  deriving DecidableEq, Repr

/-- The instruction of an address form. -/
def AddrForm.build : AddrForm → Addr → Instr
  | .sys, a => .sys a
  | .jp, a => .jp a
  | .call, a => .call a
  | .ldI, a => .ldINnn a
  | .jpV0, a => .jpV0Nnn a

/-- One word an assembled line stands for: an instruction, an address form whose label is not resolved yet, or a raw
word (R113, R116). -/
inductive AsmItem where
  | instr (i : Instr)
  | ref (form : AddrForm) (name : Text)
  | raw (w : Word)
  deriving DecidableEq, Repr

/-! ### Extended `LD I` (R114) -/

/-- The instructions of `LD I, addr` with `addr > 0xFFF`: `LD I, 0xFFF`, then additions of 0xFF and of the remainder
through VE; a group of zero additions is left out (R114). -/
def extendedLdI (addr : Nat) : List Instr :=
  let q := (addr - 0xFFF) / 0xFF
  let m := (addr - 0xFFF) % 0xFF
  [.ldINnn 0xFFF#12] ++
    (if 0 < q then .ldVxKk 0xE#4 0xFF#8 :: List.replicate q (.addIVx 0xE#4) else []) ++
    (if 0 < m then [.ldVxKk 0xE#4 (BitVec.ofNat 8 m), .addIVx 0xE#4] else [])

/-! ### One line (R107, R110) -/

/-- What a line's operands give: the words it emits, or an error. -/
abbrev LineResult := Except AsmError (List AsmItem)

/-- A line that emits one instruction. -/
def emits (i : Instr) : LineResult := .ok [.instr i]

/-- An instruction built from operands that parsed, or the error. -/
def emitOpt (i : Option Instr) : LineResult :=
  match i with
  | some i => emits i
  | none => .error .malformedOperand

/-- An address-or-label operand of a form (R110). `SYS 0x0E0` and `SYS 0x0EE` pass the range check of R109 and emit 00E0 and
00EE, the words of `CLS` and `RET`: DESIGN CHOICE, the spec says neither word nor error (log entry 19). -/
def emitAddr (form : AddrForm) (t : Text) : LineResult :=
  if looksLiteral t then
    match literalBelow 0x1000 t with
    | some v => emits (AddrForm.build form (BitVec.ofNat 12 v))
    | none => .error .malformedOperand
  else .ok [.ref form t]

/-- `LD I, addr-or-label`: a literal above 0xFFF selects the extended form (R114); a label always gives one word
(R116). -/
def emitLdI (t : Text) : LineResult :=
  if looksLiteral t then
    match literalBelow 0x10000 t with
    | some v =>
      if v ≤ 0xFFF then emits (.ldINnn (BitVec.ofNat 12 v)) else .ok ((extendedLdI v).map .instr)
    | none => .error .malformedOperand
  else .ok [.ref .ldI t]

/-- A form with one register operand. -/
def emitReg (f : Nibble → Instr) (a : Text) : LineResult := emitOpt ((regOperand a).map f)

/-- A form with two register operands. -/
def emitRegReg (f : Nibble → Nibble → Instr) (a b : Text) : LineResult :=
  emitOpt (match regOperand a, regOperand b with
    | some x, some y => some (f x y)
    | _, _ => none)

/-- A form with a register and a byte. -/
def emitRegByte (f : Nibble → Byte → Instr) (a b : Text) : LineResult :=
  emitOpt (match regOperand a, byteOperand b with
    | some x, some kk => some (f x kk)
    | _, _ => none)

/-- A mnemonic that takes a register and a byte, or two registers, told apart by the second operand (R107). -/
def emitRegOrByte (byteForm : Nibble → Byte → Instr) (regForm : Nibble → Nibble → Instr) (a b : Text) : LineResult :=
  if looksLiteral b then emitRegByte byteForm a b else emitRegReg regForm a b

/-- The shapes of `LD` (R110). -/
def emitLd (a b : Text) : LineResult :=
  if a = "I".toList then emitLdI b
  else if a = "DT".toList then emitReg .ldDtVx b
  else if a = "ST".toList then emitReg .ldStVx b
  else if a = "F".toList then emitReg .ldFVx b
  else if a = "B".toList then emitReg .ldBVx b
  else if a = "[I]".toList then emitReg .ldMemVx b
  else if b = "DT".toList then emitReg .ldVxDt a
  else if b = "K".toList then emitReg .ldVxK a
  else if b = "[I]".toList then emitReg .ldVxMem a
  else emitRegOrByte .ldVxKk .ldVxVy a b

/-- The shapes of `ADD` (R110). -/
def emitAdd (a b : Text) : LineResult :=
  if a = "I".toList then emitReg .addIVx b else emitRegOrByte .addVxKk .addVxVy a b

/-- The shape `DRW Vx, Vy, nibble` (R110). -/
def emitDrw (a b c : Text) : LineResult :=
  emitOpt (match regOperand a, regOperand b, nibbleOperand c with
    | some x, some y, some n => some (.drw x y n)
    | _, _, _ => none)

/-- `.word` and its 16-bit literal (R113). -/
def emitWord (a : Text) : LineResult :=
  match literalBelow 0x10000 a with
  | some v => .ok [.raw (BitVec.ofNat 16 v)]
  | none => .error .malformedOperand

/-- `JP` with two operands: `V0` and the address (R110). -/
def emitJpV0 (a b : Text) : LineResult :=
  if regOperand a = some 0x0#4 then emitAddr .jpV0 b else .error .malformedOperand

/-- The mnemonics without operands (R110). -/
def assemble0 (m : String) : Option LineResult :=
  match m with
  | "CLS" => some (emits .cls)
  | "RET" => some (emits .ret)
  | _ => none

/-- The mnemonics with one operand (R110); `SHR` and `SHL` are built with `y = 0` (R91). -/
def assemble1 (m : String) (a : Text) : Option LineResult :=
  match m with
  | "SYS" => some (emitAddr .sys a)
  | "JP" => some (emitAddr .jp a)
  | "CALL" => some (emitAddr .call a)
  | "SHR" => some (emitReg (.shrVx · 0x0#4) a)
  | "SHL" => some (emitReg (.shlVx · 0x0#4) a)
  | "SKP" => some (emitReg .skpVx a)
  | "SKNP" => some (emitReg .sknpVx a)
  | ".WORD" => some (emitWord a)
  | _ => none

/-- The mnemonics with two operands (R110). -/
def assemble2 (m : String) (a b : Text) : Option LineResult :=
  match m with
  | "JP" => some (emitJpV0 a b)
  | "SE" => some (emitRegOrByte .seVxKk .seVxVy a b)
  | "SNE" => some (emitRegOrByte .sneVxKk .sneVxVy a b)
  | "OR" => some (emitRegReg .orVxVy a b)
  | "AND" => some (emitRegReg .andVxVy a b)
  | "XOR" => some (emitRegReg .xorVxVy a b)
  | "SUB" => some (emitRegReg .subVxVy a b)
  | "SUBN" => some (emitRegReg .subnVxVy a b)
  | "ADD" => some (emitAdd a b)
  | "LD" => some (emitLd a b)
  | "RND" => some (emitRegByte .rndVxKk a b)
  | _ => none

/-- The mnemonics with three operands (R110). -/
def assemble3 (m : String) (a b c : Text) : Option LineResult :=
  match m with
  | "DRW" => some (emitDrw a b c)
  | _ => none

/-- The mnemonics of R107, as they are after case is normalised. -/
def mnemonics : List String :=
  ["CLS", "RET", "SYS", "JP", "CALL", "SE", "SNE", "SKP", "SKNP", "OR", "XOR"] ++
  ["AND", "SUB", "SUBN", "ADD", "LD", "RND", "DRW", "SHR", "SHL", ".WORD"]

/-- The tokens of an instruction line, its mnemonic first, in any case (R107). -/
def assembleTokens (mnemonic : Text) (operands : List Text) : LineResult :=
  let m := String.ofList (mnemonic.map Char.toUpper)
  let shape := match operands with
    | [] => assemble0 m
    | [a] => assemble1 m a
    | [a, b] => assemble2 m a b
    | [a, b, c] => assemble3 m a b c
    | _ => none
  match shape with
  | some r => r
  | none => .error (if m ∈ mnemonics then .wrongOperandCount else .unknownMnemonic)

/-- One line that holds no label definition (R104). -/
def assembleLine (line : Text) : LineResult :=
  match tokenize line with
  | [] => .ok []
  | m :: operands => assembleTokens m operands

/-! ### Two passes (R106, R115 to R117) -/

/-- An error and the number of its line, counted from 1. -/
structure Diagnostic where
  line : Nat
  error : AsmError
  deriving DecidableEq, Repr

/-- What pass one has gathered: the items so far with their lines, the labels with their addresses, the errors, all
latest first. -/
structure PassOne where
  items : List (Nat × AsmItem)
  labels : List (Text × Nat)
  errors : List Diagnostic
  deriving DecidableEq, Repr

/-- The address of a name, if it is bound. -/
def lookupLabel (name : Text) : List (Text × Nat) → Option Nat
  | [] => none
  | (n, a) :: rest => if n = name then some a else lookupLabel name rest

/-- The emission address: 0x200 and two for each word emitted so far (R115). -/
def emissionAddr (p : PassOne) : Nat := Config.programBase.toNat + 2 * p.items.length

/-- Pass one on one line (R106, R116). A bad line records one error, its first reason, and counts no word for the addresses
of later labels: DESIGN CHOICE, the spec says neither (R117; log entry 18). -/
def passOneLine (p : PassOne) (n : Nat) (line : Text) : PassOne :=
  match labelOf (tokenize line) with
  | some name =>
    if (lookupLabel name p.labels).isSome then { p with errors := ⟨n, .repeatedLabel name⟩ :: p.errors }
    else { p with labels := (name, emissionAddr p) :: p.labels }
  | none =>
    match assembleLine line with
    | .ok items => { p with items := (items.map fun it => (n, it)).reverse ++ p.items }
    | .error e => { p with errors := ⟨n, e⟩ :: p.errors }

/-- Pass one on the lines from number `n` on. -/
def passOne (p : PassOne) (n : Nat) : List Text → PassOne
  | [] => p
  | line :: rest => passOne (passOneLine p n line) (n + 1) rest

/-- Pass two on one word: a label is replaced by its address (R116). -/
def resolveItem (labels : List (Text × Nat)) : AsmItem → Except AsmError Word
  | .instr i => .ok (encode i)
  | .raw w => .ok w
  | .ref form name =>
    match lookupLabel name labels with
    | some a =>
      if a ≤ 0xFFF then .ok (encode (AddrForm.build form (BitVec.ofNat 12 a))) else .error (.labelOutOfReach name)
    | none => .error (.unresolvedSymbol name)

/-- Pass two: the words in order and the errors in order. -/
def passTwo (labels : List (Text × Nat)) : List (Nat × AsmItem) → List Word × List Diagnostic
  | [] => ([], [])
  | (n, it) :: rest =>
    match resolveItem labels it, passTwo labels rest with
    | .ok w, (ws, ds) => (w :: ws, ds)
    | .error e, (ws, ds) => (ws, ⟨n, e⟩ :: ds)

/-- What the assembler answers: the words in emission order, or every error and no words (R117). -/
inductive Assembled where
  | binary (ws : List Word)
  | errors (ds : List Diagnostic)
  deriving DecidableEq, Repr

/-- Assembling a source text (R104, R116, R117). -/
def assemble (source : Text) : Assembled :=
  let p := passOne ⟨[], [], []⟩ 1 (splitLines source)
  match passTwo p.labels p.items.reverse with
  | (ws, ds) => if (p.errors.reverse ++ ds).isEmpty then .binary ws else .errors (p.errors.reverse ++ ds)

/-- The binary image: each word big-endian, no header (R112). It is the ROM of `Reset(rom)`. -/
def imageBytes (ws : List Word) : List Byte := ws.flatMap bytesOfWord

end Sys2Proof.Machine
end

