-- ==== Sys2Proof/Machine/HostInterface.lean ====
section
/-! DEFINITION. What the front end can do to the block from outside (`60_exceptions.md` rule R243): its actions between
steps, and `Reset(rom)` (`70_reset_and_hazards.md` rules R255 to R258) for every value of the launch parameters. The
outputs it reads are fields of State and `State.soundOn`. -/

namespace Sys2Proof.Machine

/-- Whether a front-end action may be performed: not in FAULTED or HALTED (R130, R243). -/
def State.acceptsHost (s : State) : Bool := decide (s.runState ≠ .faulted) && decide (s.runState ≠ .halted)

/-- `ResolveKey(k)` in WAIT_KEY performs the waiting `LD Vx, K`; elsewhere it is not usable (R243). -/
def State.resolveKey (s : State) (k : Nibble) : State :=
  match s.runState, s.ibInstr with
  | .waitKey, some (.ldVxK x) => State.deliverKey s x k
  | _, _ => s

/-- A front-end action performed between two steps (R121, R243). An action where it is not usable changes nothing
(log entry 8). -/
def State.hostAct (s : State) (a : HostAction) : State :=
  if State.acceptsHost s then
    match a with
    | .updateKeys b => State.updateKeys s b
    | .resolveKey k => State.resolveKey s k
    | .cancelWait => if s.runState = .waitKey then State.cancelWait s else s
  else s

/-- The launch parameters of `Reset(rom)` (`00_scope.md` R6, `70_reset_and_hazards.md` R256). -/
structure LaunchParams where
  /-- RESET_V. -/
  v : Vector Byte 16
  /-- RESET_I. -/
  i : Word
  /-- RESET_DT. -/
  dt : Byte
  /-- RESET_ST. -/
  st : Byte
  /-- RESET_SCREEN. -/
  screen : Vector (BitVec 64) 32
  /-- RESET_KEYS. -/
  keys : Vector Bool 16
  /-- RESET_MEM: the bytes from address 0 on; an address beyond the list reads as an unlisted one. -/
  mem : List Byte
  /-- FONT: 80 bytes. -/
  font : Vector Byte 80
  /-- FETCHES_PER_TIMER_DECREMENT and SYS_BEHAVIOUR. -/
  params : Params
  deriving DecidableEq, Repr

/-- The longest ROM that fits: 65536 - 0x200 bytes (R257). -/
def maxRomBytes : Nat := 0xFE00

/-- Memory at the end of `Reset(rom)`: RESET_MEM, over it the font, over that the ROM from 0x200 (R255, R257, R258). -/
def resetMemory (p : LaunchParams) (rom : List Byte) : Memory :=
  Memory.writeBytes
    (Memory.writeBytes (Memory.writeBytes [] 0 (p.mem.take Config.memSize)) 0 p.font.toList)
    Config.programBase.toNat rom

/-- `Reset(rom)` (R255, R256), in any state: every state element at its reset value; a ROM that does not fit is refused
and no run starts (R257). The model's own fields stay: the front end's queue and the count of draws are no state of the
block (log entry 12). -/
def State.resetWith (s : State) (p : LaunchParams) (rom : List Byte) : Option State :=
  if rom.length ≤ maxRomBytes then
    some
      { v := p.v
        i := p.i
        pc := Config.programBase
        stack := []
        dt := p.dt
        st := p.st
        screen := p.screen
        keys := p.keys
        pressedKey := Config.noKey
        mem := resetMemory p rom
        runState := .fetch
        ibPc := 0x0000#16
        ibOp := 0x0000#16
        ibInstr := none
        effect := .noEffect
        faultRecord := none
        fetchCount := 0
        params := p.params
        hostQueue := s.hostQueue
        draws := s.draws }
  else none

/-- The code of a fault kind (R227). -/
def FaultKind.code : FaultKind → Nat
  | .illegalOpcode => 1
  | .stackOverflow => 2
  | .stackUnderflow => 3
  | .memoryOutOfBounds => 4
  | .keyIndexOutOfRange => 5
  | .fetchOutOfRange => 6
  | .sysUnmodelled => 7

end Sys2Proof.Machine
end

