-- ==== Sys2Proof/Safety.lean ====
section
/-! DEFINITION. What claims about the machine are stated in: the invariant of every run, and what it means that parts of
two states agree. -/

namespace Sys2Proof.Machine

/-- What `ib_instr`, `effect` and `pc` hold while an instruction is in the buffer: in DECODE, EXECUTE and WAIT_KEY `pc`
is `ib_pc + 2` and `ib_pc` was fetchable (R27, R123, R124); in EXECUTE and WAIT_KEY the buffer holds the decoded form of
`ib_op` (R126, R128) and `effect` is its class (R95), and the form is one that waits exactly in WAIT_KEY (R126). -/
def State.bufferOk (s : State) : Prop :=
  (s.runState = .decode ∨ s.runState = .execute ∨ s.runState = .waitKey →
    s.pc = s.ibPc + 2#16 ∧ fetchable s.ibPc = true) ∧
  (s.runState = .execute ∨ s.runState = .waitKey →
    ∃ i, s.ibInstr = some i ∧ decode s.ibOp = .instr i ∧ s.effect = i.sideEffect ∧
      (s.runState = .waitKey ↔ i.sideEffect = .blocksOnKey))

/-- The invariant of every run. -/
structure State.Inv (s : State) : Prop where
  /-- Memory is in its canonical form, inside the address space (R50). -/
  memory : Memory.wf s.mem = true
  /-- The call stack holds 0 to 16 entries (R31). -/
  stack : s.stack.length ≤ Config.stackCap
  /-- The prescaler is below the cadence (R43); so the cadence is at least 1 (R6). -/
  prescaler : s.fetchCount < s.params.fetchesPerTimerDecrement
  /-- `pressed_key` is 0 to 16 (R36). -/
  pressedKey : s.pressedKey.toNat ≤ 16
  /-- There is a fault record exactly in FAULTED (R42, R251). -/
  record : s.faultRecord.isSome = true ↔ s.runState = .faulted
  /-- The instruction buffer. -/
  buffer : State.bufferOk s

/-- A part of the state, for saying what an instruction leaves as it was. Every field of State but `run_state` is a part
or split into parts. -/
inductive Part where
  /-- `V[r]`. -/
  | reg (r : Nibble)
  /-- `I`. -/
  | index
  | pc
  | stack
  | delayTimer
  | soundTimer
  /-- `screen[py][px]`. -/
  | pixel (py px : Nat)
  | keys
  | pressedKey
  /-- The byte of memory at an address. -/
  | byte (a : Nat)
  | ibPc
  | ibOp
  | ibInstr
  | effect
  | faultRecord
  | fetchCount
  | params
  | hostQueue
  | draws
  deriving DecidableEq, Repr

/-- A part is the same in both states. -/
def Part.same (s t : State) : Part → Prop
  | .reg r => State.reg t r = State.reg s r
  | .index => t.i = s.i
  | .pc => t.pc = s.pc
  | .stack => t.stack = s.stack
  | .delayTimer => t.dt = s.dt
  | .soundTimer => t.st = s.st
  | .pixel py px => Sys2Proof.Machine.pixel t.screen py px = Sys2Proof.Machine.pixel s.screen py px
  | .keys => t.keys = s.keys
  | .pressedKey => t.pressedKey = s.pressedKey
  | .byte a => Memory.read t.mem a = Memory.read s.mem a
  | .ibPc => t.ibPc = s.ibPc
  | .ibOp => t.ibOp = s.ibOp
  | .ibInstr => t.ibInstr = s.ibInstr
  | .effect => t.effect = s.effect
  | .faultRecord => t.faultRecord = s.faultRecord
  | .fetchCount => t.fetchCount = s.fetchCount
  | .params => t.params = s.params
  | .hostQueue => t.hostQueue = s.hostQueue
  | .draws => t.draws = s.draws

/-- THE FRAME: every part of which `written` does not hold is the same in both states. -/
def Unchanged (s t : State) (written : Part → Prop) : Prop := ∀ p, ¬ written p → Part.same s t p

/-- The state after `raise Fault(kind, info)` in DECODE or EXECUTE: the state before it, the fault record and
`run_state = FAULTED` (`60_exceptions.md` R236). -/
def Faulted (s : State) (kind : FaultKind) (info : FaultInfo) : State :=
  { s with runState := .faulted, faultRecord := some ⟨kind, s.ibPc, some s.ibOp, info⟩ }

/-- Whether the sprite `DRW Vx, Vy, n` draws from state `s` has a set bit on the pixel in row `py`, column `px`
(`43_display.md` R182). -/
def SpriteOn (s : State) (x y n : Nibble) (py px : Nat) : Prop :=
  ∃ r c, r < n.toNat ∧ c < 8 ∧ py = ((State.reg s y).toNat + r) % 32 ∧ px = ((State.reg s x).toNat + c) % 64 ∧
    (Memory.read s.mem (s.i.toNat + r)).getLsbD (7 - c) = true

/-- Whether an instruction is one of those that write general register `r`, as the list of `10_state.md` R22 has it. -/
def writesReg : Instr → Nibble → Bool
  | .cls, _ => false
  | .ret, _ => false
  | .sys _, _ => false
  | .jp _, _ => false
  | .call _, _ => false
  | .seVxKk _ _, _ => false
  | .sneVxKk _ _, _ => false
  | .seVxVy _ _, _ => false
  | .ldVxKk x _, r => r == x
  | .addVxKk x _, r => r == x
  | .ldVxVy x _, r => r == x
  | .orVxVy x _, r => r == x
  | .andVxVy x _, r => r == x
  | .xorVxVy x _, r => r == x
  | .addVxVy x _, r => r == x || r == 0xF#4
  | .subVxVy x _, r => r == x || r == 0xF#4
  | .shrVx x _, r => r == x || r == 0xF#4
  | .subnVxVy x _, r => r == x || r == 0xF#4
  | .shlVx x _, r => r == x || r == 0xF#4
  | .sneVxVy _ _, _ => false
  | .ldINnn _, _ => false
  | .jpV0Nnn _, _ => false
  | .rndVxKk x _, r => r == x
  | .drw _ _ _, r => r == 0xF#4
  | .skpVx _, _ => false
  | .sknpVx _, _ => false
  | .ldVxDt x, r => r == x
  | .ldVxK x, r => r == x
  | .ldDtVx _, _ => false
  | .ldStVx _, _ => false
  | .addIVx _, _ => false
  | .ldFVx _, _ => false
  | .ldBVx _, _ => false
  | .ldMemVx _, _ => false
  | .ldVxMem x, r => decide (r.toNat ≤ x.toNat)

/-- Running instructions one after another, each from the state the one before it left (for pseudo-instructions). -/
def execAll : List Instr → State → Result
  | [], s => .next s
  | i :: rest, s =>
    match exec i s with
    | .next t => execAll rest t
    | .fault f => .fault f
    | .refused r => .refused r

/-- Following the state machine's transitions through DECODE and EXECUTE, at most `n` of them, from an outcome. -/
def settle : Nat → Result → Result
  | 0, r => r
  | n + 1, .next t =>
    if t.runState = .decode ∨ t.runState = .execute then settle n (transition t) else .next t
  | _ + 1, .fault f => .fault f
  | _ + 1, .refused r => .refused r

end Sys2Proof.Machine
end

