-- ==== Sys2Proof/Certificates/Slice0/Obligations.lean ====
section
/-! DEFINITION. The statements about the machine, each from the rule or section of the spec its docstring names. `Unchanged
s t w` is the frame: every part of the state but those of `w` is as it was; `run_state` is said apart. -/

open Sys2Proof Sys2Proof.Machine

/-! ### Encoding (`30_encoding.md`) -/

/-- Decoding the word of a well-formed instruction gives the instruction back, every operand at every value (section 5;
that `00E0` and `00EE` are no words of `SYS` is the spec's choice, section 3, so well-formedness leaves them out). -/
def Obligations.DecodeOfEncode : Prop :=
  ∀ i : Instr, i.wellFormed = true → decode (encode i) = .instr i

/-- Every legal word's instruction re-encodes to the word, which the instruction buffer keeps (the round-trip section),
and is well formed: no word decodes to `SYS` with address 0x0E0 or 0x0EE, whose words are `CLS` and `RET` by the spec's
choice (the decoder section, D7; log entry 14). -/
def Obligations.EncodeOfDecode : Prop :=
  (∀ (w : Word) (i : Instr), decode w = .instr i → encode i = w ∧ i.wellFormed = true) ∧
  ∀ (s : State) (i : Instr), decode s.ibOp = .instr i →
    (decodeStep s).ibInstr = some i ∧ (decodeStep s).ibOp = s.ibOp ∧ encode i = (decodeStep s).ibOp

/-- Which words are illegal (section 4; the low nibble of families 5 and 9 is the spec's decision D9). -/
def Obligations.IllegalWordsExactly : Prop :=
  ∀ w : Word, decode w = .illegal ↔
    (w.toNat / 4096 = 5 ∧ w.toNat % 16 ≠ 0) ∨
    (w.toNat / 4096 = 9 ∧ w.toNat % 16 ≠ 0) ∨
    (w.toNat / 4096 = 8 ∧ w.toNat % 16 ∈ [8, 9, 0xA, 0xB, 0xC, 0xD, 0xF]) ∨
    (w.toNat / 4096 = 0xE ∧ w.toNat % 256 ∉ [0x9E, 0xA1]) ∨
    (w.toNat / 4096 = 0xF ∧ w.toNat % 256 ∉ [0x07, 0x0A, 0x15, 0x18, 0x1E, 0x29, 0x33, 0x55, 0x65])

/-- The decoder and the opcode map agree: a decoded word has its row's fixed bits, and a word with a row's fixed bits
decodes to that row, but for the two words of `CLS` and `RET` (section 3; the patterns are the spec's, marked general
knowledge there). -/
def Obligations.OpcodeMapAgrees : Prop :=
  (∀ (w : Word) (i : Instr), decode w = .instr i → w &&& i.mask = i.pattern) ∧
  ∀ (w : Word) (i : Instr), w &&& i.mask = i.pattern →
    w = 0x00E0#16 ∨ w = 0x00EE#16 ∨ ∃ j, decode w = .instr j ∧ j.mask = i.mask ∧ j.pattern = i.pattern

/-- A few words written out from the opcode map, one or more of each family, decode to what they stand for. -/
def Obligations.SampleWordsDecode : Prop :=
  decode 0b0000_0000_1110_0000#16 = .instr .cls ∧
  decode 0b0010_0100_0000_0000#16 = .instr (.call 0x400#12) ∧
  decode 0b1000_1010_1011_0110#16 = .instr (.shrVx 0xA#4 0xB#4) ∧
  decode 0b1101_0001_0010_0101#16 = .instr (.drw 0x1#4 0x2#4 0x5#4) ∧
  decode 0b1110_0101_1001_1110#16 = .instr (.skpVx 0x5#4) ∧
  decode 0b1111_0011_0011_0011#16 = .instr (.ldBVx 0x3#4) ∧
  decode 0b1111_0101_0001_1000#16 = .instr (.ldStVx 0x5#4) ∧
  decode 0b1000_0000_0000_1000#16 = .illegal

/-! ### The execution cycle (`40_execution_cycle.md`) -/

/-- R52, R124: a fetch at a good `pc` buffers the two bytes there, big-endian, and their address, and moves `pc` on by 2
modulo 2^16; but for the timers it changes nothing else. -/
def Obligations.FetchBuffersWord : Prop :=
  ∀ s : State, fetchable s.pc = true →
    (fetchStep s).ibOp.toNat =
      (Memory.read s.mem s.pc.toNat).toNat * 256 + (Memory.read s.mem (s.pc.toNat + 1)).toNat ∧
    (fetchStep s).ibPc = s.pc ∧
    (fetchStep s).pc.toNat = (s.pc.toNat + 2) % 65536 ∧
    (fetchStep s).runState = .decode ∧
    Unchanged s (fetchStep s) fun p =>
      p = .ibOp ∨ p = .ibPc ∨ p = .pc ∨ p = .fetchCount ∨ p = .delayTimer ∨ p = .soundTimer

/-- A successful fetch counts toward the timers: at the cadence the count starts again and both timers fall by 1, a timer
at 0 staying there; before it neither moves (the timer section; that a timer stops at 0 is general knowledge there, and
that the fetch step does it is the spec's decision D18). -/
def Obligations.FetchTicksTimers : Prop :=
  ∀ s : State, fetchable s.pc = true →
    (s.fetchCount + 1 = s.params.fetchesPerTimerDecrement →
      (fetchStep s).fetchCount = 0 ∧ (fetchStep s).dt.toNat = s.dt.toNat - 1 ∧
        (fetchStep s).st.toNat = s.st.toNat - 1) ∧
    (s.fetchCount + 1 ≠ s.params.fetchesPerTimerDecrement →
      (fetchStep s).fetchCount = s.fetchCount + 1 ∧ (fetchStep s).dt = s.dt ∧ (fetchStep s).st = s.st)

/-- A step in FETCH with `pc` odd, below 0x200 or above 0xFFFE faults, reads nothing and counts nothing ("the spec makes
its violation a fault", section 1, D5). -/
def Obligations.BadFetchFaults : Prop :=
  ∀ s : State, s.runState = .fetch → (s.pc.toNat % 2 = 1 ∨ s.pc.toNat < 0x200 ∨ 0xFFFE < s.pc.toNat) →
    step s = .next { s with runState := .faulted, faultRecord := some ⟨.fetchOutOfRange, s.pc, none, .nothing⟩ }

/-- An illegal word raises ILLEGAL_OPCODE in the decode step, with `fault_pc = ib_pc` and `fault_op = ib_op` (the faults
section); so a step that fetches one answers the fetched state with that record (the fusion of FETCH and DECODE into one
step is the model's choice, log entry 1). -/
def Obligations.IllegalWordFaults : Prop :=
  (∀ s : State, s.runState = .decode → decode s.ibOp = .illegal →
    step s = .next (Faulted s .illegalOpcode .nothing)) ∧
  ∀ s : State, s.runState = .fetch → fetchable s.pc = true → decode (fetchWord s.mem s.pc) = .illegal →
    step s = .next { fetchStep s with
      runState := .faulted
      faultRecord := some ⟨.illegalOpcode, s.pc, some (fetchWord s.mem s.pc), .nothing⟩ }

/-- The decode step of a legal word sets the effect output to the form's class; every form but six has the class None, which
ends a stale class too (the classes' section, where the assignment of classes to forms is the spec's). -/
def Obligations.DecodeSetsEffectClass : Prop :=
  ∀ (s : State) (i : Instr), decode s.ibOp = .instr i →
    ((i = .cls ∨ ∃ x y n, i = .drw x y n) → (decodeStep s).effect = .needsScreenRedraw) ∧
    ((∃ x, i = .skpVx x ∨ i = .sknpVx x) → (decodeStep s).effect = .needsKeyState) ∧
    ((∃ x, i = .ldVxK x) → (decodeStep s).effect = .blocksOnKey ∧ (decodeStep s).runState = .waitKey) ∧
    ((∃ x, i = .ldStVx x) → (decodeStep s).effect = .affectsSound) ∧
    (i ≠ .cls → (∀ x y n, i ≠ .drw x y n) → (∀ x, i ≠ .skpVx x ∧ i ≠ .sknpVx x ∧ i ≠ .ldVxK x ∧ i ≠ .ldStVx x) →
      (decodeStep s).effect = .noEffect) ∧
    ((∀ x, i ≠ .ldVxK x) → (decodeStep s).runState = .execute)

/-- A step in FETCH whose word decodes to an instruction is `exec` of it on the fetched state with the instruction in the
buffer, after the front end's turn; for the key wait, the state in WAIT_KEY, where the next step is `exec` of it (the
fusion of the transitions is the model's choice, log entry 1). -/
def Obligations.StepRunsDecodedInstruction : Prop :=
  (∀ (s : State) (i : Instr), s.runState = .fetch → fetchable s.pc = true →
    decode (fetchWord s.mem s.pc) = .instr i → i.sideEffect ≠ .blocksOnKey →
    step s = exec i (State.hostTurn (State.buffer (fetchStep s) i))) ∧
  (∀ (s : State) (x : Nibble), s.runState = .fetch → fetchable s.pc = true →
    decode (fetchWord s.mem s.pc) = .instr (.ldVxK x) →
    step s = .next (State.buffer (fetchStep s) (.ldVxK x)) ∧
      (State.buffer (fetchStep s) (.ldVxK x)).runState = .waitKey ∧
      (State.buffer (fetchStep s) (.ldVxK x)).effect = .blocksOnKey) ∧
  ∀ (s : State) (i : Instr), s.runState = .waitKey → s.ibInstr = some i → step s = exec i s

/-- An instruction placed by `withFetchWord`, but for the key wait, is the one the very next step fetches and runs (the placing
is the model's, log entry 12, and so is the fusion of the transitions into one step, also for classes other than None, log
entry 1). -/
def Obligations.StepRunsPlacedWord : Prop :=
  ∀ (s : State) (w : Word) (i : Instr), Memory.wf s.mem = true → decode w = .instr i →
    i.sideEffect ≠ .blocksOnKey →
    decodeTableWord 16 w.toNat = some i ∧
    ∃ t, step (s.withFetchWord 16 w.toNat) = exec i t ∧ t.ibInstr = some i ∧ t.ibOp = w ∧ t.pc = t.ibPc + 2#16 ∧
      t.v = s.v ∧ t.i = s.i ∧ t.stack = s.stack

/-- R130: FAULTED and HALTED take no step, and no front-end action changes anything there. -/
def Obligations.TerminalStatesStay : Prop :=
  ∀ s : State, s.runState = .faulted ∨ s.runState = .halted →
    (∀ t, step s ≠ .next t) ∧ ∀ a, State.hostAct s a = s

/-- The fused step is the state machine's transitions, followed until FETCH, WAIT_KEY, FAULTED or HALTED (sections 1 and
2; the fusion is the model's choice, log entry 1). -/
def Obligations.StepIsTransitions : Prop :=
  ∀ s : State, step s = settle 2 (transition s) ∧
    ∀ t, step s = .next t → t.runState ≠ .decode ∧ t.runState ≠ .execute

/-! ### Control transfer (`41_control_flow.md`) -/

/-- R140, R234: `SYS` raises SYS_UNMODELLED when SYS_BEHAVIOUR is FAULT, the default, and changes no state when it is
NOP. -/
def Obligations.SysFaultsOrDoesNothing : Prop :=
  State.reset.params.sysBehaviour = .fault ∧
  (∀ (s : State) (nnn : Addr), s.params.sysBehaviour = .fault →
    exec (.sys nnn) s = .next (Faulted s .sysUnmodelled .nothing)) ∧
  ∀ (s : State) (nnn : Addr), s.params.sysBehaviour = .nop →
    ∃ t, exec (.sys nnn) s = .next t ∧ t.runState = .fetch ∧ Unchanged s t fun _ => False

/-- R143, R144: `JP` sets `pc` to its address, `JP V0` to its address plus `V[0]`. -/
def Obligations.JumpsSetPc : Prop :=
  ∀ (s : State) (nnn : Addr),
    (∃ t, exec (.jp nnn) s = .next t ∧ t.runState = .fetch ∧ t.pc.toNat = nnn.toNat ∧
      Unchanged s t fun p => p = .pc) ∧
    ∃ t, exec (.jpV0Nnn nnn) s = .next t ∧ t.runState = .fetch ∧
      t.pc.toNat = nnn.toNat + (State.reg s 0x0#4).toNat ∧ Unchanged s t fun p => p = .pc

/-- R142, R229: `CALL` pushes `pc` and jumps; on a stack of 16 entries it faults and changes nothing else. -/
def Obligations.CallPushesAndJumps : Prop :=
  ∀ (s : State) (nnn : Addr),
    (s.stack.length < 16 → ∃ t, exec (.call nnn) s = .next t ∧ t.runState = .fetch ∧ t.stack = s.pc :: s.stack ∧
      t.pc.toNat = nnn.toNat ∧ Unchanged s t fun p => p = .pc ∨ p = .stack) ∧
    (s.stack.length = 16 → exec (.call nnn) s = .next (Faulted s .stackOverflow .nothing))

/-- R141, R230: `RET` pops the top of the stack into `pc`; on an empty stack it faults and changes nothing else. -/
def Obligations.RetPopsIntoPc : Prop :=
  (∀ (s : State) (a : Word) (rest : List Word), s.stack = a :: rest →
    ∃ t, exec .ret s = .next t ∧ t.runState = .fetch ∧ t.pc = a ∧ t.stack = rest ∧
      Unchanged s t fun p => p = .pc ∨ p = .stack) ∧
  ∀ s : State, s.stack = [] → exec .ret s = .next (Faulted s .stackUnderflow .nothing)

/-- A `RET` executed with the stack a `CALL` left returns to the instruction after the `CALL`, whatever ran between
(sections of CALL and RET). -/
def Obligations.RetUndoesCall : Prop :=
  ∀ (s t u : State) (nnn : Addr), exec (.call nnn) s = .next t → t.runState = .fetch → u.stack = t.stack →
    ∃ r, exec .ret u = .next r ∧ r.pc = s.pc ∧ r.stack = s.stack ∧ r.runState = .fetch

/-- `SE` skips on equality and `SNE` on inequality, over one word, `pc` modulo 2^16; nothing else changes (the skip
sections; that the comparisons are equality and inequality is general knowledge there). -/
def Obligations.SkipsCompare : Prop :=
  ∀ (s : State) (x y : Nibble) (kk : Byte),
    (∃ t, exec (.seVxKk x kk) s = .next t ∧ t.runState = .fetch ∧ Unchanged s t (fun p => p = .pc) ∧
      t.pc.toNat = (s.pc.toNat + if (State.reg s x).toNat = kk.toNat then 2 else 0) % 65536) ∧
    (∃ t, exec (.sneVxKk x kk) s = .next t ∧ t.runState = .fetch ∧ Unchanged s t (fun p => p = .pc) ∧
      t.pc.toNat = (s.pc.toNat + if (State.reg s x).toNat = kk.toNat then 0 else 2) % 65536) ∧
    (∃ t, exec (.seVxVy x y) s = .next t ∧ t.runState = .fetch ∧ Unchanged s t (fun p => p = .pc) ∧
      t.pc.toNat = (s.pc.toNat + if (State.reg s x).toNat = (State.reg s y).toNat then 2 else 0) % 65536) ∧
    ∃ t, exec (.sneVxVy x y) s = .next t ∧ t.runState = .fetch ∧ Unchanged s t (fun p => p = .pc) ∧
      t.pc.toNat = (s.pc.toNat + if (State.reg s x).toNat = (State.reg s y).toNat then 0 else 2) % 65536

/-! ### Register arithmetic and logic (`42_alu.md`) -/

/-- R160, R161: `LD Vx, kk` loads the byte; `ADD Vx, kk` adds it modulo 256 and writes no flag. -/
def Obligations.ImmediateLoadAndAdd : Prop :=
  ∀ (s : State) (x : Nibble) (kk : Byte),
    (∃ t, exec (.ldVxKk x kk) s = .next t ∧ t.runState = .fetch ∧ State.reg t x = kk ∧
      Unchanged s t fun p => p = .reg x) ∧
    ∃ t, exec (.addVxKk x kk) s = .next t ∧ t.runState = .fetch ∧
      (State.reg t x).toNat = ((State.reg s x).toNat + kk.toNat) % 256 ∧ Unchanged s t fun p => p = .reg x

/-- `LD Vx, Vy` copies the register ("its meaning is general knowledge" in its section, D11). -/
def Obligations.RegisterCopy : Prop :=
  ∀ (s : State) (x y : Nibble), ∃ t, exec (.ldVxVy x y) s = .next t ∧ t.runState = .fetch ∧
    State.reg t x = State.reg s y ∧ Unchanged s t fun p => p = .reg x

/-- R163, R164, R165: `OR`, `AND`, `XOR` bit by bit into `V[x]`, no flag. -/
def Obligations.BitwiseLogic : Prop :=
  ∀ (s : State) (x y : Nibble),
    (∃ t, exec (.orVxVy x y) s = .next t ∧ t.runState = .fetch ∧ Unchanged s t (fun p => p = .reg x) ∧
      ∀ k < 8, (State.reg t x).getLsbD k = ((State.reg s x).getLsbD k || (State.reg s y).getLsbD k)) ∧
    (∃ t, exec (.andVxVy x y) s = .next t ∧ t.runState = .fetch ∧ Unchanged s t (fun p => p = .reg x) ∧
      ∀ k < 8, (State.reg t x).getLsbD k = ((State.reg s x).getLsbD k && (State.reg s y).getLsbD k)) ∧
    ∃ t, exec (.xorVxVy x y) s = .next t ∧ t.runState = .fetch ∧ Unchanged s t (fun p => p = .reg x) ∧
      ∀ k < 8, (State.reg t x).getLsbD k = ((State.reg s x).getLsbD k ^^ (State.reg s y).getLsbD k)

/-- `ADD Vx, Vy` writes the sum modulo 256 and then the carry to VF (section 1; with x = 15 VF ends as the flag, which
is written last: the spec's choice, D12, log entry 14). -/
def Obligations.AddWritesCarry : Prop :=
  ∀ (s : State) (x y : Nibble), ∃ t, exec (.addVxVy x y) s = .next t ∧ t.runState = .fetch ∧
    (x ≠ 0xF#4 → (State.reg t x).toNat = ((State.reg s x).toNat + (State.reg s y).toNat) % 256) ∧
    (State.reg t 0xF#4).toNat = (if 0xFF < (State.reg s x).toNat + (State.reg s y).toNat then 1 else 0) ∧
    Unchanged s t fun p => p = .reg x ∨ p = .reg 0xF#4

/-- `SUB` writes `V[x] - V[y]` and `SUBN` `V[y] - V[x]`, modulo 256, and then to VF whether the number subtracted from
is strictly greater (section 1; with x = 15 VF ends as the flag, which is written last: the spec's choice, D12, log
entry 14). -/
def Obligations.SubtractWritesNotBorrow : Prop :=
  ∀ (s : State) (x y : Nibble),
    (∃ t, exec (.subVxVy x y) s = .next t ∧ t.runState = .fetch ∧
      (x ≠ 0xF#4 → (State.reg t x).toNat = (256 + (State.reg s x).toNat - (State.reg s y).toNat) % 256) ∧
      (State.reg t 0xF#4).toNat = (if (State.reg s y).toNat < (State.reg s x).toNat then 1 else 0) ∧
      Unchanged s t fun p => p = .reg x ∨ p = .reg 0xF#4) ∧
    ∃ t, exec (.subnVxVy x y) s = .next t ∧ t.runState = .fetch ∧
      (x ≠ 0xF#4 → (State.reg t x).toNat = (256 + (State.reg s y).toNat - (State.reg s x).toNat) % 256) ∧
      (State.reg t 0xF#4).toNat = (if (State.reg s x).toNat < (State.reg s y).toNat then 1 else 0) ∧
      Unchanged s t fun p => p = .reg x ∨ p = .reg 0xF#4

/-- `SHR` halves `V[x]` and `SHL` doubles it modulo 256, VF takes the bit shifted out, and the `y` field is ignored
(section 1; with x = 15 VF ends as the flag, which is written last: the spec's choice, D12, log entry 14). -/
def Obligations.ShiftsWriteBitOut : Prop :=
  ∀ (s : State) (x y : Nibble),
    (∃ t, exec (.shrVx x y) s = .next t ∧ t.runState = .fetch ∧
      (x ≠ 0xF#4 → (State.reg t x).toNat = (State.reg s x).toNat / 2) ∧
      (State.reg t 0xF#4).toNat = (State.reg s x).toNat % 2 ∧
      Unchanged s t fun p => p = .reg x ∨ p = .reg 0xF#4) ∧
    ∃ t, exec (.shlVx x y) s = .next t ∧ t.runState = .fetch ∧
      (x ≠ 0xF#4 → (State.reg t x).toNat = (State.reg s x).toNat * 2 % 256) ∧
      (State.reg t 0xF#4).toNat = (State.reg s x).toNat / 128 ∧
      Unchanged s t fun p => p = .reg x ∨ p = .reg 0xF#4

/-- `RND` writes a drawn byte, which neither the mask nor the destination chooses, ANDed with the mask (section 1, RND);
the next draw is another one (the count of draws is the model's own field, log entry 7). -/
def Obligations.RandomByteUnderMask : Prop :=
  ∀ s : State, ∃ r : Byte, ∀ (x : Nibble) (kk : Byte), ∃ t, exec (.rndVxKk x kk) s = .next t ∧
    t.runState = .fetch ∧ State.reg t x = r &&& kk ∧ t.draws = s.draws + 1 ∧
    Unchanged s t fun p => p = .reg x ∨ p = .draws

/-! ### Display (`43_display.md`) -/

/-- R180: `CLS` turns every pixel off. -/
def Obligations.ClearScreenTurnsAllOff : Prop :=
  ∀ s : State, ∃ t, exec .cls s = .next t ∧ t.runState = .fetch ∧
    (∀ py px, pixel t.screen py px = false) ∧ Unchanged s t fun p => ∃ py px, p = .pixel py px

/-- `DRW` in bounds flips exactly the pixels under the sprite's set bits, wrapped on both axes, and VF tells whether one
that was on was turned off (the DRW section; that bit 7 is the leftmost pixel is general knowledge there, D15). -/
def Obligations.DrawFlipsSpritePixels : Prop :=
  ∀ (s : State) (x y n : Nibble), s.i.toNat + n.toNat ≤ 65536 →
    ∃ t, exec (.drw x y n) s = .next t ∧ t.runState = .fetch ∧
      (∀ py px, py < 32 → px < 64 →
        (pixel t.screen py px = true ↔ ¬ (pixel s.screen py px = true ↔ SpriteOn s x y n py px))) ∧
      ((∃ py px, pixel s.screen py px = true ∧ SpriteOn s x y n py px) → State.reg t 0xF#4 = 1#8) ∧
      ((¬ ∃ py px, pixel s.screen py px = true ∧ SpriteOn s x y n py px) → State.reg t 0xF#4 = 0#8) ∧
      Unchanged s t fun p => p = .reg 0xF#4 ∨ ∃ py px, p = .pixel py px

/-- Drawing the same sprite twice at the same place restores the screen (a corner case of the DRW section), for
coordinate registers that are not VF, which the first draw writes. -/
def Obligations.DrawTwiceRestoresScreen : Prop :=
  ∀ (s t u : State) (x y n : Nibble), x ≠ 0xF#4 → y ≠ 0xF#4 → s.i.toNat + n.toNat ≤ 65536 →
    exec (.drw x y n) s = .next t → exec (.drw x y n) t = .next u →
    ∀ py px, py < 32 → px < 64 → pixel u.screen py px = pixel s.screen py px

/-- `CLS` and then `DRW` leave exactly the sprite's pixels on and VF = 0 (the section on both; the bit order is general
knowledge, D15). -/
def Obligations.ClearThenDrawShowsSprite : Prop :=
  ∀ (s t : State) (x y n : Nibble), s.i.toNat + n.toNat ≤ 65536 → exec .cls s = .next t →
    ∃ u, exec (.drw x y n) t = .next u ∧ State.reg u 0xF#4 = 0#8 ∧
      ∀ py px, py < 32 → px < 64 → (pixel u.screen py px = true ↔ SpriteOn s x y n py px)

/-! ### Keypad (`44_keypad.md`) -/

/-- R190, R191, R232: `SKP` skips if the key `V[x]` is pressed, `SKNP` if it is not; an index of 16 or more faults and
changes nothing else. -/
def Obligations.KeySkips : Prop :=
  ∀ (s : State) (x : Nibble),
    (∀ h : (State.reg s x).toNat < 16,
      (∃ t, exec (.skpVx x) s = .next t ∧ t.runState = .fetch ∧ Unchanged s t (fun p => p = .pc) ∧
        t.pc.toNat = (s.pc.toNat + if s.keys[(State.reg s x).toNat] = true then 2 else 0) % 65536) ∧
      ∃ t, exec (.sknpVx x) s = .next t ∧ t.runState = .fetch ∧ Unchanged s t (fun p => p = .pc) ∧
        t.pc.toNat = (s.pc.toNat + if s.keys[(State.reg s x).toNat] = true then 0 else 2) % 65536) ∧
    (16 ≤ (State.reg s x).toNat →
      exec (.skpVx x) s = .next (Faulted s .keyIndexOutOfRange (.key (State.reg s x))) ∧
      exec (.sknpVx x) s = .next (Faulted s .keyIndexOutOfRange (.key (State.reg s x))))

/-- A key update the front end has queued is taken before a `SKP` or `SKNP` executes, which reads the new flags; with none
queued it reads the flags last written (the duty of NeedsKeyState; the queue is the model's own field, log entry 8). -/
def Obligations.KeyFlagsRefreshedBeforeSkip : Prop :=
  ∀ (s : State) (i : Instr), s.runState = .execute → s.ibInstr = some i → s.effect = .needsKeyState →
    (∀ b rest, s.hostQueue = .updateKeys b :: rest →
      step s = exec i { s with keys := b, hostQueue := rest }) ∧
    ((∀ b rest, s.hostQueue ≠ .updateKeys b :: rest) → step s = exec i s)

/-- `UpdateKeys(b)` between steps writes the key flags and nothing else, in FETCH, DECODE, EXECUTE and WAIT_KEY; outside
WAIT_KEY `ResolveKey` and `CancelWait` are not usable, and the model's block then ignores them (the front-end interface;
that an action where it is not usable changes nothing is the model's choice, log entry 8). -/
def Obligations.HostActionsBetweenSteps : Prop :=
  ∀ s : State, s.runState ≠ .faulted → s.runState ≠ .halted →
    (∀ b, (State.hostAct s (.updateKeys b)).keys = b ∧ (State.hostAct s (.updateKeys b)).runState = s.runState ∧
      Unchanged s (State.hostAct s (.updateKeys b)) fun p => p = .keys) ∧
    (s.runState ≠ .waitKey → (∀ k, State.hostAct s (.resolveKey k) = s) ∧ State.hostAct s .cancelWait = s)

/-- In WAIT_KEY only the front end moves the block: `ResolveKey(k)` puts k into `V[x]` and `pressed_key` and goes on in
FETCH, `CancelWait` puts 16 into `pressed_key`, writes no register and halts (HALTED is the spec's choice, D20, log
entry 14), a key update leaves it waiting, and without a queued action a step leaves the state as it is, timers and
prescaler included (the queue, and that a step in WAIT_KEY answers the state itself, are the model's, log entry 8). -/
def Obligations.KeyWaitIsLeftByFrontEnd : Prop :=
  ∀ (s : State) (x k : Nibble), s.runState = .waitKey → s.ibInstr = some (.ldVxK x) →
    ((State.hostAct s (.resolveKey k)).runState = .fetch ∧
      (State.reg (State.hostAct s (.resolveKey k)) x).toNat = k.toNat ∧
      (State.hostAct s (.resolveKey k)).pressedKey.toNat = k.toNat ∧
      Unchanged s (State.hostAct s (.resolveKey k)) fun p => p = .reg x ∨ p = .pressedKey) ∧
    ((State.hostAct s .cancelWait).runState = .halted ∧ (State.hostAct s .cancelWait).pressedKey.toNat = 16 ∧
      Unchanged s (State.hostAct s .cancelWait) fun p => p = .pressedKey) ∧
    (∀ b, (State.hostAct s (.updateKeys b)).runState = .waitKey ∧
      Unchanged s (State.hostAct s (.updateKeys b)) fun p => p = .keys) ∧
    (s.hostQueue = [] → step s = .next s)

/-- `LD Vx, K` completes with the front end's queued answer, halts on a queued cancel (HALTED is the spec's choice, D20, log
entry 14), and goes on waiting on a queued key update or on nothing (the LD Vx, K section; the queue, and that an idle
step answers a waiting state, are the model's, log entry 8). -/
def Obligations.KeyWaitTakesQueuedAnswer : Prop :=
  ∀ (s : State) (x : Nibble) (rest : List HostAction),
    (∀ k, s.hostQueue = .resolveKey k :: rest → ∃ t, exec (.ldVxK x) s = .next t ∧ t.runState = .fetch ∧
      (State.reg t x).toNat = k.toNat ∧ t.pressedKey.toNat = k.toNat ∧ t.hostQueue = rest ∧
      Unchanged s t fun p => p = .reg x ∨ p = .pressedKey ∨ p = .hostQueue) ∧
    (s.hostQueue = .cancelWait :: rest → ∃ t, exec (.ldVxK x) s = .next t ∧ t.runState = .halted ∧
      t.pressedKey.toNat = 16 ∧ t.hostQueue = rest ∧ Unchanged s t fun p => p = .pressedKey ∨ p = .hostQueue) ∧
    (∀ b, s.hostQueue = .updateKeys b :: rest → ∃ t, exec (.ldVxK x) s = .next t ∧ t.runState = .waitKey ∧
      t.keys = b ∧ t.hostQueue = rest ∧ Unchanged s t fun p => p = .keys ∨ p = .hostQueue) ∧
    (s.hostQueue = [] → ∃ t, exec (.ldVxK x) s = .next t ∧ t.runState = .waitKey ∧ Unchanged s t fun _ => False)

/-! ### Index register and memory (`45_index_memory.md`, `20_memory.md`) -/

/-- R200, R201, R202: `LD I` loads the address, `ADD I` adds a register modulo 65536 without a flag, `LD F` points `I` at
five times the register's value, used in full. -/
def Obligations.IndexRegisterWrites : Prop :=
  ∀ (s : State) (x : Nibble) (nnn : Addr),
    (∃ t, exec (.ldINnn nnn) s = .next t ∧ t.runState = .fetch ∧ t.i.toNat = nnn.toNat ∧
      Unchanged s t fun p => p = .index) ∧
    (∃ t, exec (.addIVx x) s = .next t ∧ t.runState = .fetch ∧
      t.i.toNat = (s.i.toNat + (State.reg s x).toNat) % 65536 ∧ Unchanged s t fun p => p = .index) ∧
    ∃ t, exec (.ldFVx x) s = .next t ∧ t.runState = .fetch ∧ t.i.toNat = (State.reg s x).toNat * 5 ∧
      Unchanged s t fun p => p = .index

/-- R203: `LD B` in bounds stores the decimal digits of `V[x]` in the three bytes at `I` and no other byte; out of bounds
it faults and stores nothing. -/
def Obligations.DecimalDigitsStored : Prop :=
  ∀ (s : State) (x : Nibble), Memory.wf s.mem = true →
    (s.i.toNat + 3 ≤ 65536 →
      ∃ t, exec (.ldBVx x) s = .next t ∧ t.runState = .fetch ∧
        (Memory.read t.mem s.i.toNat).toNat = (State.reg s x).toNat / 100 ∧
        (Memory.read t.mem (s.i.toNat + 1)).toNat = (State.reg s x).toNat / 10 % 10 ∧
        (Memory.read t.mem (s.i.toNat + 2)).toNat = (State.reg s x).toNat % 10 ∧
        Unchanged s t fun p => ∃ k, k < 3 ∧ p = .byte (s.i.toNat + k)) ∧
    (65536 < s.i.toNat + 3 →
      exec (.ldBVx x) s = .next (Faulted s .memoryOutOfBounds (.access s.i 3)))

/-- R204: `LD [I], Vx` in bounds stores `V[0]` to `V[x]` at `I`, `I + 1`, … and no other byte, and leaves `I`; out of
bounds it faults and stores nothing. -/
def Obligations.RegisterBlockStored : Prop :=
  ∀ (s : State) (x : Nibble), Memory.wf s.mem = true →
    (s.i.toNat + x.toNat + 1 ≤ 65536 →
      ∃ t, exec (.ldMemVx x) s = .next t ∧ t.runState = .fetch ∧
        (∀ k : Nibble, k.toNat ≤ x.toNat → Memory.read t.mem (s.i.toNat + k.toNat) = State.reg s k) ∧
        Unchanged s t fun p => ∃ k, k ≤ x.toNat ∧ p = .byte (s.i.toNat + k)) ∧
    (65536 < s.i.toNat + x.toNat + 1 →
      exec (.ldMemVx x) s = .next (Faulted s .memoryOutOfBounds (.access s.i (x.toNat + 1))))

/-- R205: `LD Vx, [I]` in bounds loads `V[0]` to `V[x]` from `I`, `I + 1`, … and no other register, and leaves `I`; out of
bounds it faults and loads nothing. -/
def Obligations.RegisterBlockLoaded : Prop :=
  ∀ (s : State) (x : Nibble),
    (s.i.toNat + x.toNat + 1 ≤ 65536 →
      ∃ t, exec (.ldVxMem x) s = .next t ∧ t.runState = .fetch ∧
        (∀ k : Nibble, k.toNat ≤ x.toNat → State.reg t k = Memory.read s.mem (s.i.toNat + k.toNat)) ∧
        Unchanged s t fun p => ∃ k : Nibble, k.toNat ≤ x.toNat ∧ p = .reg k) ∧
    (65536 < s.i.toNat + x.toNat + 1 →
      exec (.ldVxMem x) s = .next (Faulted s .memoryOutOfBounds (.access s.i (x.toNat + 1))))

/-- R231: an I-relative access whose last byte would be beyond 0xFFFF raises MEMORY_OUT_OF_BOUNDS and writes no byte,
register, pixel or flag. -/
def Obligations.OutOfBoundsAccessFaults : Prop :=
  ∀ (s : State) (x y n : Nibble),
    (65536 < s.i.toNat + n.toNat →
      exec (.drw x y n) s = .next (Faulted s .memoryOutOfBounds (.access s.i n.toNat))) ∧
    (65536 < s.i.toNat + 3 → exec (.ldBVx x) s = .next (Faulted s .memoryOutOfBounds (.access s.i 3))) ∧
    (65536 < s.i.toNat + (x.toNat + 1) →
      exec (.ldMemVx x) s = .next (Faulted s .memoryOutOfBounds (.access s.i (x.toNat + 1))) ∧
      exec (.ldVxMem x) s = .next (Faulted s .memoryOutOfBounds (.access s.i (x.toNat + 1))))

/-- A block stored over the next word is what the next fetch reads, with no fence between (the section on instruction-fetch
coherence). -/
def Obligations.StoreSeenByNextFetch : Prop :=
  ∀ (s t : State) (x a b : Nibble), Memory.wf s.mem = true → fetchable s.pc = true →
    s.i.toNat + x.toNat + 1 ≤ 65536 → exec (.ldMemVx x) s = .next t →
    s.pc.toNat = s.i.toNat + a.toNat → b.toNat = a.toNat + 1 → b.toNat ≤ x.toNat →
    (fetchStep t).ibOp.toNat = (State.reg s a).toNat * 256 + (State.reg s b).toNat

/-! ### Timers (`46_timers.md`) -/

/-- `LD Vx, DT` reads the delay timer, `LD DT, Vx` and `LD ST, Vx` set the timers; `fetch_count` is not reset; after `LD
ST, Vx` the sound output is on exactly if the value is not 0 (that the output is `ST > 0` is general knowledge in its
rule and the spec's decision D31, log entry 14). -/
def Obligations.TimerReadsAndSets : Prop :=
  ∀ (s : State) (x : Nibble),
    (∃ t, exec (.ldVxDt x) s = .next t ∧ t.runState = .fetch ∧ State.reg t x = s.dt ∧
      Unchanged s t fun p => p = .reg x) ∧
    (∃ t, exec (.ldDtVx x) s = .next t ∧ t.runState = .fetch ∧ t.dt = State.reg s x ∧
      Unchanged s t fun p => p = .delayTimer) ∧
    ∃ t, exec (.ldStVx x) s = .next t ∧ t.runState = .fetch ∧ t.st = State.reg s x ∧
      (State.soundOn t = true ↔ State.reg s x ≠ 0#8) ∧ Unchanged s t fun p => p = .soundTimer

/-! ### Whole-machine rules -/

/-- An instruction that answers a next state leaves every general register outside its entry in the list of writers as it was
(the section on the general registers). -/
def Obligations.RegisterWritersListed : Prop :=
  ∀ (i : Instr) (s t : State) (r : Nibble), exec i s = .next t → writesReg i r = false →
    State.reg t r = State.reg s r

/-- Only `CALL` and `RET` change the call stack, `LD B` and `LD [I], Vx` memory, `CLS` and `DRW` the screen (the sections on
control transfer, memory access and other storage). -/
def Obligations.StorageWriters : Prop :=
  ∀ (i : Instr) (s t : State), exec i s = .next t →
    ((∀ nnn, i ≠ .call nnn) → i ≠ .ret → t.stack = s.stack) ∧
    ((∀ x, i ≠ .ldBVx x) → (∀ x, i ≠ .ldMemVx x) → ∀ a, Memory.read t.mem a = Memory.read s.mem a) ∧
    (i ≠ .cls → (∀ x y n, i ≠ .drw x y n) → ∀ py px, pixel t.screen py px = pixel s.screen py px)

/-- Only `LD I`, `ADD I` and `LD F` write `I`; only `LD DT` and `LD ST` the timers in EXECUTE; only the front end,
through the key wait, the key flags and `pressed_key` (the sections on storage); only the key wait takes from the queue
of front-end actions and only `RND` counts a draw (`hostQueue` and `draws` are the model's own fields, log entries 8 and
7). -/
def Obligations.SpecialRegisterWriters : Prop :=
  ∀ (i : Instr) (s t : State), exec i s = .next t →
    ((∀ nnn, i ≠ .ldINnn nnn) → (∀ x, i ≠ .addIVx x) → (∀ x, i ≠ .ldFVx x) → t.i = s.i) ∧
    ((∀ x, i ≠ .ldDtVx x) → t.dt = s.dt) ∧ ((∀ x, i ≠ .ldStVx x) → t.st = s.st) ∧
    ((∀ x, i ≠ .ldVxK x) → t.keys = s.keys ∧ t.pressedKey = s.pressedKey ∧ t.hostQueue = s.hostQueue) ∧
    ((∀ x kk, i ≠ .rndVxKk x kk) → t.draws = s.draws)

/-- No instruction writes the instruction buffer, the effect output, the prescaler or the launch parameters, and none
clears or rewrites the fault record unless it faults (the section on control state and what is not state). -/
def Obligations.ControlStateUntouched : Prop :=
  ∀ (i : Instr) (s t : State), exec i s = .next t →
    t.ibPc = s.ibPc ∧ t.ibOp = s.ibOp ∧ t.ibInstr = s.ibInstr ∧ t.effect = s.effect ∧ t.fetchCount = s.fetchCount ∧
      t.params = s.params ∧ (t.runState ≠ .faulted → t.faultRecord = s.faultRecord)

/-- R236: a fault is precise: the state after it is the state before the faulting step, plus the record and FAULTED; in
EXECUTE `pc` is still `ib_pc + 2` and the buffer holds the instruction, in FETCH `pc` is the faulting address. -/
def Obligations.FaultsArePrecise : Prop :=
  (∀ (i : Instr) (s t : State), exec i s = .next t → t.runState = .faulted →
    t = { s with runState := .faulted, faultRecord := t.faultRecord } ∧
      (∃ kind info, t.faultRecord = some ⟨kind, s.ibPc, some s.ibOp, info⟩) ∧
      (s.pc = s.ibPc + 2#16 → t.pc = t.ibPc + 2#16)) ∧
  (∀ s : State, (decodeStep s).runState = .faulted →
    decodeStep s = { s with runState := .faulted, faultRecord := (decodeStep s).faultRecord }) ∧
  ∀ s : State, (fetchStep s).runState = .faulted →
    fetchStep s = { s with runState := .faulted, faultRecord := (fetchStep s).faultRecord } ∧
      (fetchStep s).faultRecord = some ⟨.fetchOutOfRange, (fetchStep s).pc, none, .nothing⟩

/-- Every instruction has a next state from every state: none is refused, none stops without a state (the model takes the
spec's faults as states, log entry 9; that `LD Vx, K` with nothing queued answers a waiting state is the model's choice, log
entry 8, since the spec gives the block no step of its own in WAIT_KEY). -/
def Obligations.EveryInstructionAnswersNext : Prop :=
  ∀ (i : Instr) (s : State), ∃ t, exec i s = .next t ∧ t.runState ≠ .decode ∧ t.runState ≠ .execute

/-- From every state of the invariant that is not terminal the machine steps (a fault counts as a next state, log entry
9; in WAIT_KEY with no action queued the step answers the state itself, log entry 8: both are the model's choice, the
spec gives the block no step of its own in WAIT_KEY). -/
def Obligations.RunningMachineSteps : Prop :=
  ∀ s : State, State.Inv s → s.runState ≠ .faulted → s.runState ≠ .halted → ∃ t, step s = .next t

/-- A step never changes the launch parameters (they are configuration, fixed for a run). -/
def Obligations.StepKeepsParameters : Prop :=
  ∀ s t : State, step s = .next t → t.params = s.params

/-- Every step keeps the invariant: canonical memory, at most 16 stack entries, a prescaler below the cadence, a key slot
of 0 to 16, a fault record exactly in FAULTED, and a buffer that holds what its run state says. -/
def Obligations.StepKeepsInvariant : Prop :=
  ∀ s t : State, State.Inv s → step s = .next t → State.Inv t

/-- The state after reset meets the invariant. -/
def Obligations.ResetMeetsInvariant : Prop := State.Inv State.reset

/-- Every front-end action between steps keeps the invariant. -/
def Obligations.HostActionKeepsInvariant : Prop :=
  ∀ (s : State) (a : HostAction), State.Inv s → State.Inv (State.hostAct s a)

/-! ### Reset (`70_reset_and_hazards.md`) -/

/-- `Reset(rom)`, in any state and for every value of the launch parameters, puts byte j of the ROM at 0x200 + j and the
font at 0, and refuses a ROM of more than 0xFE00 bytes; the state it leaves is at the reset values of section 1 (stack,
`pressed_key`, run state, buffer, effect, fault record and `fetch_count` are the spec's decision D26, log entry 14) and
meets the model's invariant. -/
def Obligations.ResetLoadsRomAndFont : Prop :=
  ∀ (s : State) (p : LaunchParams) (rom : List Byte),
    (0xFE00 < rom.length → State.resetWith s p rom = none) ∧
    (rom.length ≤ 0xFE00 → ∃ t, State.resetWith s p rom = some t ∧
      (∀ (j : Nat) (h : j < rom.length), Memory.read t.mem (0x200 + j) = rom[j]) ∧
      (∀ (d k : Nat) (h : 5 * d + k < 80), k < 5 → Memory.read t.mem (5 * d + k) = p.font[5 * d + k]) ∧
      (∀ (a : Nat) (h : a < p.mem.length), a < 65536 → 80 ≤ a → a < 0x200 ∨ 0x200 + rom.length ≤ a →
        Memory.read t.mem a = p.mem[a]) ∧
      t.pc = 0x200#16 ∧ t.v = p.v ∧ t.i = p.i ∧ t.dt = p.dt ∧ t.st = p.st ∧ t.stack = [] ∧ t.screen = p.screen ∧
      t.keys = p.keys ∧ t.pressedKey = 16#5 ∧ t.runState = .fetch ∧ t.ibInstr = none ∧ t.effect = .noEffect ∧
      t.faultRecord = none ∧ t.fetchCount = 0 ∧
      (1 ≤ p.params.fetchesPerTimerDecrement → State.Inv t))

/-! ### Assembler (`30_encoding.md` section 6) -/

/-- The canonical text of an instruction assembles to that instruction; that of `SHR` and `SHL`, which does not show
`y`, assembles to the form with `y = 0` (section 6; the spelling corners the spec leaves open are the model's, log entry
13, and so is that the texts `SYS 0x0E0` and `SYS 0x0EE` are accepted, log entry 19). -/
def Obligations.CanonicalTextAssemblesBack : Prop :=
  (∀ i : Instr, (∀ x y, i ≠ .shrVx x y) → (∀ x y, i ≠ .shlVx x y) → assembleLine (instrText i) = .ok [.instr i]) ∧
  (∀ x y, assembleLine (instrText (.shrVx x y)) = .ok [.instr (.shrVx x 0#4)]) ∧
  ∀ x y, assembleLine (instrText (.shlVx x y)) = .ok [.instr (.shlVx x 0#4)]

/-- The instructions of the extended `LD I, addr` (addr > 0xFFF), run from any state, leave `I = addr` and `V[14]` = 0xFF or
the remainder, and no other register changed (section 6; that an empty group is left out is the spec's choice). -/
def Obligations.ExtendedLoadReachesAddress : Prop :=
  ∀ (s : State) (addr : Nat), 0xFFF < addr → addr ≤ 0xFFFF →
    ∃ t, execAll (extendedLdI addr) s = .next t ∧ t.i.toNat = addr ∧
      (State.reg t 0xE#4).toNat = (if (addr - 0xFFF) % 0xFF = 0 then 0xFF else (addr - 0xFFF) % 0xFF) ∧
      Unchanged s t fun p => p = .index ∨ p = .reg 0xE#4
end

