-- ==== Sys2Proof/Laws/Decode.lean ====
section
/-! SUPPORT. The fields of a packed word are the fields it was packed from, for each format (`30_encoding.md` R77, R78),
and the bytes of a word give the word back (R76). -/

namespace Sys2Proof

/-- Two words of `w` bits are equal when their numbers are. -/
theorem eq_of_toNat {w : Nat} {a b : BitVec w} (h : a.toNat = b.toNat) : a = b := BitVec.eq_of_toNat_eq h

/-- The number of a concatenation: the high part scaled, plus the low part (`00_scope.md` R9). -/
theorem toNat_concat {m n : Nat} (a : BitVec m) (b : BitVec n) : (a ++ b).toNat = a.toNat * 2 ^ n + b.toNat := by
  rw [BitVec.toNat_append, ← Nat.shiftLeft_add_eq_or_of_lt b.isLt, Nat.shiftLeft_eq]

theorem toNat_packXYN (h x y n : Nibble) :
    (packXYN h x y n).toNat = h.toNat * 4096 + x.toNat * 256 + y.toNat * 16 + n.toNat := by
  simp only [packXYN, toNat_concat]
  omega

theorem toNat_packXKK (h x : Nibble) (kk : Byte) :
    (packXKK h x kk).toNat = h.toNat * 4096 + x.toNat * 256 + kk.toNat := by
  simp only [packXKK, toNat_concat]
  omega

theorem toNat_packNNN (h : Nibble) (nnn : Addr) : (packNNN h nnn).toNat = h.toNat * 4096 + nnn.toNat := by
  simp only [packNNN, toNat_concat]
  omega

theorem toNat_opFamily (w : Word) : (opFamily w).toNat = w.toNat / 4096 := by
  have := w.isLt
  simp only [opFamily, BitVec.extractLsb'_toNat, Nat.shiftRight_eq_div_pow]
  omega

theorem toNat_opX (w : Word) : (opX w).toNat = w.toNat / 256 % 16 := by
  simp only [opX, BitVec.extractLsb'_toNat, Nat.shiftRight_eq_div_pow]

theorem toNat_opY (w : Word) : (opY w).toNat = w.toNat / 16 % 16 := by
  simp only [opY, BitVec.extractLsb'_toNat, Nat.shiftRight_eq_div_pow]

theorem toNat_opN (w : Word) : (opN w).toNat = w.toNat % 16 := by
  simp only [opN, BitVec.extractLsb'_toNat, Nat.shiftRight_eq_div_pow, Nat.pow_zero, Nat.div_one]

theorem toNat_opKk (w : Word) : (opKk w).toNat = w.toNat % 256 := by
  simp only [opKk, BitVec.extractLsb'_toNat, Nat.shiftRight_eq_div_pow, Nat.pow_zero, Nat.div_one]

theorem toNat_opNnn (w : Word) : (opNnn w).toNat = w.toNat % 4096 := by
  simp only [opNnn, BitVec.extractLsb'_toNat, Nat.shiftRight_eq_div_pow, Nat.pow_zero, Nat.div_one]

/-! ### Format XYN -/

@[simp] theorem opFamily_packXYN (h x y n : Nibble) : opFamily (packXYN h x y n) = h := by
  have := x.isLt; have := y.isLt; have := n.isLt
  exact eq_of_toNat (by rw [toNat_opFamily, toNat_packXYN]; omega)

@[simp] theorem opX_packXYN (h x y n : Nibble) : opX (packXYN h x y n) = x := by
  have := x.isLt; have := y.isLt; have := n.isLt
  exact eq_of_toNat (by rw [toNat_opX, toNat_packXYN]; omega)

@[simp] theorem opY_packXYN (h x y n : Nibble) : opY (packXYN h x y n) = y := by
  have := y.isLt; have := n.isLt
  exact eq_of_toNat (by rw [toNat_opY, toNat_packXYN]; omega)

@[simp] theorem opN_packXYN (h x y n : Nibble) : opN (packXYN h x y n) = n := by
  have := n.isLt
  exact eq_of_toNat (by rw [toNat_opN, toNat_packXYN]; omega)

/-! ### Format XKK -/

@[simp] theorem opFamily_packXKK (h x : Nibble) (kk : Byte) : opFamily (packXKK h x kk) = h := by
  have := x.isLt; have := kk.isLt
  exact eq_of_toNat (by rw [toNat_opFamily, toNat_packXKK]; omega)

@[simp] theorem opX_packXKK (h x : Nibble) (kk : Byte) : opX (packXKK h x kk) = x := by
  have := x.isLt; have := kk.isLt
  exact eq_of_toNat (by rw [toNat_opX, toNat_packXKK]; omega)

@[simp] theorem opKk_packXKK (h x : Nibble) (kk : Byte) : opKk (packXKK h x kk) = kk := by
  have := kk.isLt
  exact eq_of_toNat (by rw [toNat_opKk, toNat_packXKK]; omega)

/-! ### Format NNN -/

@[simp] theorem opFamily_packNNN (h : Nibble) (nnn : Addr) : opFamily (packNNN h nnn) = h := by
  have := nnn.isLt
  exact eq_of_toNat (by rw [toNat_opFamily, toNat_packNNN]; omega)

@[simp] theorem opNnn_packNNN (h : Nibble) (nnn : Addr) : opNnn (packNNN h nnn) = nnn := by
  have := nnn.isLt
  exact eq_of_toNat (by rw [toNat_opNnn, toNat_packNNN]; omega)

/-! ### Bytes -/

/-- The bytes of a word, read big-endian, give the word back. -/
theorem wordOfBytes_bytesOfWord (w : Word) : wordOfBytes (w.extractLsb' 8 8) (w.extractLsb' 0 8) = w := by
  have := w.isLt
  refine eq_of_toNat ?_
  simp only [wordOfBytes, toNat_concat, BitVec.extractLsb'_toNat, Nat.shiftRight_eq_div_pow]
  omega

end Sys2Proof
end

