-- ==== Sys2Proof/Laws/Memory.lean ====
section
/-! SUPPORT. The laws of memory: read after write, and every memory operation keeps the canonical form. -/

namespace Sys2Proof.Machine

/-! ### The canonical form, taken apart -/

theorem Memory.above_cons (lo a : Nat) (b : Byte) (m : Memory) :
    Memory.above lo ((a, b) :: m) = true ↔ lo < a ∧ Memory.above lo m = true := by
  simp [Memory.above]

theorem Memory.wf_cons (a : Nat) (b : Byte) (m : Memory) :
    Memory.wf ((a, b) :: m) = true ↔
      a < Config.memSize ∧ b ≠ Memory.unlisted a ∧ Memory.above a m = true ∧ Memory.wf m = true := by
  simp [Memory.wf, and_assoc]

theorem Memory.above_mono {lo hi : Nat} {m : Memory} (h : lo ≤ hi) (ha : Memory.above hi m = true) :
    Memory.above lo m = true := by
  simp only [Memory.above, List.all_eq_true, decide_eq_true_eq] at ha ⊢
  exact fun c hc => Nat.lt_of_le_of_lt h (ha c hc)

/-- An address at or below every listed one reads as unlisted. -/
theorem Memory.read_above {lo a : Nat} {m : Memory} (h : Memory.above lo m = true) (ha : a ≤ lo) :
    Memory.read m a = Memory.unlisted a := by
  induction m with
  | nil => rfl
  | cons c rest ih =>
    obtain ⟨h1, h2⟩ := (Memory.above_cons ..).mp h
    have hne : a ≠ c.1 := by omega
    simp [Memory.read, hne, ih h2]

/-! ### Read after write -/

theorem Memory.read_consCell_same {m : Memory} {a : Nat} (b : Byte) (h : Memory.above a m = true) :
    Memory.read (Memory.consCell a b m) a = b := by
  unfold Memory.consCell
  split
  · next e => rw [Memory.read_above h (Nat.le_refl a), e]
  · simp [Memory.read]

theorem Memory.read_consCell_other (m : Memory) {a c : Nat} (b : Byte) (h : c ≠ a) :
    Memory.read (Memory.consCell a b m) c = Memory.read m c := by
  unfold Memory.consCell
  split
  · rfl
  · simp [Memory.read, h]

/-- A read of the address just written gives the byte written. -/
theorem Memory.read_write_same {m : Memory} (a : Nat) (b : Byte) (h : Memory.wf m = true) :
    Memory.read (Memory.write m a b) a = b := by
  induction m with
  | nil => exact Memory.read_consCell_same b rfl
  | cons c rest ih =>
    obtain ⟨_, _, h3, h4⟩ := (Memory.wf_cons ..).mp h
    unfold Memory.write
    split
    · next lt =>
      exact Memory.read_consCell_same b
        ((Memory.above_cons ..).mpr ⟨lt, Memory.above_mono (Nat.le_of_lt lt) h3⟩)
    · split
      · next eq => subst eq; exact Memory.read_consCell_same b h3
      · next ne => simp [Memory.read, ne, ih h4]

/-- A read of any other address gives what it gave before. -/
theorem Memory.read_write_other (m : Memory) {a c : Nat} (b : Byte) (h : c ≠ a) :
    Memory.read (Memory.write m a b) c = Memory.read m c := by
  induction m with
  | nil => exact Memory.read_consCell_other [] b h
  | cons d rest ih =>
    unfold Memory.write
    split
    · exact Memory.read_consCell_other _ b h
    · split
      · next eq => subst eq; rw [Memory.read_consCell_other _ b h]; simp [Memory.read, h]
      · simp only [Memory.read, ih]

/-! ### Every operation keeps the canonical form -/

theorem Memory.above_consCell {lo a : Nat} {m : Memory} (b : Byte) (hlo : lo < a) (h : Memory.above lo m = true) :
    Memory.above lo (Memory.consCell a b m) = true := by
  unfold Memory.consCell
  split
  · exact h
  · exact (Memory.above_cons ..).mpr ⟨hlo, h⟩

theorem Memory.wf_consCell {a : Nat} {m : Memory} (b : Byte) (ha : a < Config.memSize)
    (hab : Memory.above a m = true) (h : Memory.wf m = true) : Memory.wf (Memory.consCell a b m) = true := by
  unfold Memory.consCell
  split
  · exact h
  · next ne => exact (Memory.wf_cons ..).mpr ⟨ha, ne, hab, h⟩

theorem Memory.above_write {lo a : Nat} {m : Memory} (b : Byte) (hlo : lo < a) (h : Memory.above lo m = true) :
    Memory.above lo (Memory.write m a b) = true := by
  induction m with
  | nil => exact Memory.above_consCell b hlo rfl
  | cons d rest ih =>
    obtain ⟨h1, h2⟩ := (Memory.above_cons ..).mp h
    unfold Memory.write
    split
    · exact Memory.above_consCell b hlo h
    · split
      · exact Memory.above_consCell b hlo h2
      · exact (Memory.above_cons ..).mpr ⟨h1, ih h2⟩

/-- A write inside the address space keeps the canonical form. -/
theorem Memory.wf_write {m : Memory} {a : Nat} (b : Byte) (ha : a < Config.memSize) (h : Memory.wf m = true) :
    Memory.wf (Memory.write m a b) = true := by
  induction m with
  | nil => exact Memory.wf_consCell b ha rfl rfl
  | cons d rest ih =>
    obtain ⟨h1, h2, h3, h4⟩ := (Memory.wf_cons ..).mp h
    unfold Memory.write
    split
    · next lt =>
      exact Memory.wf_consCell b ha
        ((Memory.above_cons ..).mpr ⟨lt, Memory.above_mono (Nat.le_of_lt lt) h3⟩) h
    · split
      · next eq => subst eq; exact Memory.wf_consCell b ha h3 h4
      · next nlt ne =>
        exact (Memory.wf_cons ..).mpr ⟨h1, h2, Memory.above_write b (by omega) h3, ih h4⟩

/-- A block write inside the address space keeps the canonical form. -/
theorem Memory.wf_writeBytes {m : Memory} {a : Nat} {bs : List Byte} (ha : a + bs.length ≤ Config.memSize)
    (h : Memory.wf m = true) : Memory.wf (Memory.writeBytes m a bs) = true := by
  induction bs generalizing m a with
  | nil => exact h
  | cons b rest ih =>
    simp only [List.length_cons] at ha
    exact ih (by omega) (Memory.wf_write b (by omega) h)

/-! ### Block accesses -/

/-- A block write leaves every address outside its range as it was. -/
theorem Memory.read_writeBytes_other (m : Memory) {a c : Nat} (bs : List Byte) (h : c < a ∨ a + bs.length ≤ c) :
    Memory.read (Memory.writeBytes m a bs) c = Memory.read m c := by
  induction bs generalizing m a with
  | nil => rfl
  | cons b rest ih =>
    simp only [List.length_cons] at h
    simp only [Memory.writeBytes]
    rw [ih _ (by omega), Memory.read_write_other m b (by omega)]

/-- The k-th byte of a block write is read back at its address. -/
theorem Memory.read_writeBytes_inside {m : Memory} {a : Nat} {bs : List Byte} (ha : a + bs.length ≤ Config.memSize)
    (h : Memory.wf m = true) (k : Nat) (hk : k < bs.length) :
    Memory.read (Memory.writeBytes m a bs) (a + k) = bs[k] := by
  induction bs generalizing m a k with
  | nil => simp at hk
  | cons b rest ih =>
    simp only [List.length_cons] at ha hk
    have hw := Memory.wf_write (m := m) b (show a < Config.memSize by omega) h
    cases k with
    | zero =>
      simp only [Memory.writeBytes, Nat.add_zero, List.getElem_cons_zero]
      rw [Memory.read_writeBytes_other _ rest (by omega), Memory.read_write_same a b h]
    | succ j =>
      simp only [Memory.writeBytes, List.getElem_cons_succ]
      have := ih (m := Memory.write m a b) (a := a + 1) (by omega) hw j (by omega)
      rwa [show a + 1 + j = a + (j + 1) by omega] at this

@[simp] theorem Memory.length_readBytes (m : Memory) (a n : Nat) : (Memory.readBytes m a n).length = n := by
  induction n generalizing a with
  | zero => rfl
  | succ n ih => simp [Memory.readBytes, ih]

/-- The k-th byte of a block read is the byte at its address. -/
theorem Memory.getElem?_readBytes (m : Memory) (a n k : Nat) (hk : k < n) :
    (Memory.readBytes m a n)[k]? = some (Memory.read m (a + k)) := by
  induction n generalizing a k with
  | zero => omega
  | succ n ih =>
    cases k with
    | zero => rfl
    | succ j =>
      have := ih (a + 1) j (by omega)
      simp only [Memory.readBytes, List.getElem?_cons_succ, this]
      rw [show a + 1 + j = a + (j + 1) by omega]

end Sys2Proof.Machine
end

