-- ==== Sys2Proof/Laws/State.lean ====
section
/-! SUPPORT. What each named update does to each field of the state: one lemma per field per update, true by rfl. -/

namespace Sys2Proof.Machine

variable (s : State)

/-! ### State.setReg -/

@[simp] theorem State.setReg_v (x : Nibble) (b : Byte) : (State.setReg s x b).v = s.v.set x.toNat b x.isLt := rfl
@[simp] theorem State.setReg_i (x : Nibble) (b : Byte) : (State.setReg s x b).i = s.i := rfl
@[simp] theorem State.setReg_pc (x : Nibble) (b : Byte) : (State.setReg s x b).pc = s.pc := rfl
@[simp] theorem State.setReg_stack (x : Nibble) (b : Byte) : (State.setReg s x b).stack = s.stack := rfl
@[simp] theorem State.setReg_dt (x : Nibble) (b : Byte) : (State.setReg s x b).dt = s.dt := rfl
@[simp] theorem State.setReg_st (x : Nibble) (b : Byte) : (State.setReg s x b).st = s.st := rfl
@[simp] theorem State.setReg_screen (x : Nibble) (b : Byte) : (State.setReg s x b).screen = s.screen := rfl
@[simp] theorem State.setReg_keys (x : Nibble) (b : Byte) : (State.setReg s x b).keys = s.keys := rfl
@[simp] theorem State.setReg_pressedKey (x : Nibble) (b : Byte) : (State.setReg s x b).pressedKey = s.pressedKey := rfl
@[simp] theorem State.setReg_mem (x : Nibble) (b : Byte) : (State.setReg s x b).mem = s.mem := rfl
@[simp] theorem State.setReg_runState (x : Nibble) (b : Byte) : (State.setReg s x b).runState = s.runState := rfl
@[simp] theorem State.setReg_ibPc (x : Nibble) (b : Byte) : (State.setReg s x b).ibPc = s.ibPc := rfl
@[simp] theorem State.setReg_ibOp (x : Nibble) (b : Byte) : (State.setReg s x b).ibOp = s.ibOp := rfl
@[simp] theorem State.setReg_ibInstr (x : Nibble) (b : Byte) : (State.setReg s x b).ibInstr = s.ibInstr := rfl
@[simp] theorem State.setReg_effect (x : Nibble) (b : Byte) : (State.setReg s x b).effect = s.effect := rfl
@[simp] theorem State.setReg_faultRecord (x : Nibble) (b : Byte) : (State.setReg s x b).faultRecord = s.faultRecord := rfl
@[simp] theorem State.setReg_fetchCount (x : Nibble) (b : Byte) : (State.setReg s x b).fetchCount = s.fetchCount := rfl
@[simp] theorem State.setReg_params (x : Nibble) (b : Byte) : (State.setReg s x b).params = s.params := rfl
@[simp] theorem State.setReg_hostQueue (x : Nibble) (b : Byte) : (State.setReg s x b).hostQueue = s.hostQueue := rfl
@[simp] theorem State.setReg_draws (x : Nibble) (b : Byte) : (State.setReg s x b).draws = s.draws := rfl

/-! ### State.setVF -/

@[simp] theorem State.setVF_v (b : Byte) : (State.setVF s b).v = s.v.set 15 b := rfl
@[simp] theorem State.setVF_i (b : Byte) : (State.setVF s b).i = s.i := rfl
@[simp] theorem State.setVF_pc (b : Byte) : (State.setVF s b).pc = s.pc := rfl
@[simp] theorem State.setVF_stack (b : Byte) : (State.setVF s b).stack = s.stack := rfl
@[simp] theorem State.setVF_dt (b : Byte) : (State.setVF s b).dt = s.dt := rfl
@[simp] theorem State.setVF_st (b : Byte) : (State.setVF s b).st = s.st := rfl
@[simp] theorem State.setVF_screen (b : Byte) : (State.setVF s b).screen = s.screen := rfl
@[simp] theorem State.setVF_keys (b : Byte) : (State.setVF s b).keys = s.keys := rfl
@[simp] theorem State.setVF_pressedKey (b : Byte) : (State.setVF s b).pressedKey = s.pressedKey := rfl
@[simp] theorem State.setVF_mem (b : Byte) : (State.setVF s b).mem = s.mem := rfl
@[simp] theorem State.setVF_runState (b : Byte) : (State.setVF s b).runState = s.runState := rfl
@[simp] theorem State.setVF_ibPc (b : Byte) : (State.setVF s b).ibPc = s.ibPc := rfl
@[simp] theorem State.setVF_ibOp (b : Byte) : (State.setVF s b).ibOp = s.ibOp := rfl
@[simp] theorem State.setVF_ibInstr (b : Byte) : (State.setVF s b).ibInstr = s.ibInstr := rfl
@[simp] theorem State.setVF_effect (b : Byte) : (State.setVF s b).effect = s.effect := rfl
@[simp] theorem State.setVF_faultRecord (b : Byte) : (State.setVF s b).faultRecord = s.faultRecord := rfl
@[simp] theorem State.setVF_fetchCount (b : Byte) : (State.setVF s b).fetchCount = s.fetchCount := rfl
@[simp] theorem State.setVF_params (b : Byte) : (State.setVF s b).params = s.params := rfl
@[simp] theorem State.setVF_hostQueue (b : Byte) : (State.setVF s b).hostQueue = s.hostQueue := rfl
@[simp] theorem State.setVF_draws (b : Byte) : (State.setVF s b).draws = s.draws := rfl

/-! ### State.setI -/

@[simp] theorem State.setI_v (a : Word) : (State.setI s a).v = s.v := rfl
@[simp] theorem State.setI_i (a : Word) : (State.setI s a).i = a := rfl
@[simp] theorem State.setI_pc (a : Word) : (State.setI s a).pc = s.pc := rfl
@[simp] theorem State.setI_stack (a : Word) : (State.setI s a).stack = s.stack := rfl
@[simp] theorem State.setI_dt (a : Word) : (State.setI s a).dt = s.dt := rfl
@[simp] theorem State.setI_st (a : Word) : (State.setI s a).st = s.st := rfl
@[simp] theorem State.setI_screen (a : Word) : (State.setI s a).screen = s.screen := rfl
@[simp] theorem State.setI_keys (a : Word) : (State.setI s a).keys = s.keys := rfl
@[simp] theorem State.setI_pressedKey (a : Word) : (State.setI s a).pressedKey = s.pressedKey := rfl
@[simp] theorem State.setI_mem (a : Word) : (State.setI s a).mem = s.mem := rfl
@[simp] theorem State.setI_runState (a : Word) : (State.setI s a).runState = s.runState := rfl
@[simp] theorem State.setI_ibPc (a : Word) : (State.setI s a).ibPc = s.ibPc := rfl
@[simp] theorem State.setI_ibOp (a : Word) : (State.setI s a).ibOp = s.ibOp := rfl
@[simp] theorem State.setI_ibInstr (a : Word) : (State.setI s a).ibInstr = s.ibInstr := rfl
@[simp] theorem State.setI_effect (a : Word) : (State.setI s a).effect = s.effect := rfl
@[simp] theorem State.setI_faultRecord (a : Word) : (State.setI s a).faultRecord = s.faultRecord := rfl
@[simp] theorem State.setI_fetchCount (a : Word) : (State.setI s a).fetchCount = s.fetchCount := rfl
@[simp] theorem State.setI_params (a : Word) : (State.setI s a).params = s.params := rfl
@[simp] theorem State.setI_hostQueue (a : Word) : (State.setI s a).hostQueue = s.hostQueue := rfl
@[simp] theorem State.setI_draws (a : Word) : (State.setI s a).draws = s.draws := rfl

/-! ### State.setPc -/

@[simp] theorem State.setPc_v (a : Word) : (State.setPc s a).v = s.v := rfl
@[simp] theorem State.setPc_i (a : Word) : (State.setPc s a).i = s.i := rfl
@[simp] theorem State.setPc_pc (a : Word) : (State.setPc s a).pc = a := rfl
@[simp] theorem State.setPc_stack (a : Word) : (State.setPc s a).stack = s.stack := rfl
@[simp] theorem State.setPc_dt (a : Word) : (State.setPc s a).dt = s.dt := rfl
@[simp] theorem State.setPc_st (a : Word) : (State.setPc s a).st = s.st := rfl
@[simp] theorem State.setPc_screen (a : Word) : (State.setPc s a).screen = s.screen := rfl
@[simp] theorem State.setPc_keys (a : Word) : (State.setPc s a).keys = s.keys := rfl
@[simp] theorem State.setPc_pressedKey (a : Word) : (State.setPc s a).pressedKey = s.pressedKey := rfl
@[simp] theorem State.setPc_mem (a : Word) : (State.setPc s a).mem = s.mem := rfl
@[simp] theorem State.setPc_runState (a : Word) : (State.setPc s a).runState = s.runState := rfl
@[simp] theorem State.setPc_ibPc (a : Word) : (State.setPc s a).ibPc = s.ibPc := rfl
@[simp] theorem State.setPc_ibOp (a : Word) : (State.setPc s a).ibOp = s.ibOp := rfl
@[simp] theorem State.setPc_ibInstr (a : Word) : (State.setPc s a).ibInstr = s.ibInstr := rfl
@[simp] theorem State.setPc_effect (a : Word) : (State.setPc s a).effect = s.effect := rfl
@[simp] theorem State.setPc_faultRecord (a : Word) : (State.setPc s a).faultRecord = s.faultRecord := rfl
@[simp] theorem State.setPc_fetchCount (a : Word) : (State.setPc s a).fetchCount = s.fetchCount := rfl
@[simp] theorem State.setPc_params (a : Word) : (State.setPc s a).params = s.params := rfl
@[simp] theorem State.setPc_hostQueue (a : Word) : (State.setPc s a).hostQueue = s.hostQueue := rfl
@[simp] theorem State.setPc_draws (a : Word) : (State.setPc s a).draws = s.draws := rfl

/-! ### State.writeWithFlag -/

@[simp] theorem State.writeWithFlag_v (x : Nibble) (r f : Byte) : (State.writeWithFlag s x r f).v = (s.v.set x.toNat r x.isLt).set 15 f := rfl
@[simp] theorem State.writeWithFlag_i (x : Nibble) (r f : Byte) : (State.writeWithFlag s x r f).i = s.i := rfl
@[simp] theorem State.writeWithFlag_pc (x : Nibble) (r f : Byte) : (State.writeWithFlag s x r f).pc = s.pc := rfl
@[simp] theorem State.writeWithFlag_stack (x : Nibble) (r f : Byte) : (State.writeWithFlag s x r f).stack = s.stack := rfl
@[simp] theorem State.writeWithFlag_dt (x : Nibble) (r f : Byte) : (State.writeWithFlag s x r f).dt = s.dt := rfl
@[simp] theorem State.writeWithFlag_st (x : Nibble) (r f : Byte) : (State.writeWithFlag s x r f).st = s.st := rfl
@[simp] theorem State.writeWithFlag_screen (x : Nibble) (r f : Byte) : (State.writeWithFlag s x r f).screen = s.screen := rfl
@[simp] theorem State.writeWithFlag_keys (x : Nibble) (r f : Byte) : (State.writeWithFlag s x r f).keys = s.keys := rfl
@[simp] theorem State.writeWithFlag_pressedKey (x : Nibble) (r f : Byte) : (State.writeWithFlag s x r f).pressedKey = s.pressedKey := rfl
@[simp] theorem State.writeWithFlag_mem (x : Nibble) (r f : Byte) : (State.writeWithFlag s x r f).mem = s.mem := rfl
@[simp] theorem State.writeWithFlag_runState (x : Nibble) (r f : Byte) : (State.writeWithFlag s x r f).runState = s.runState := rfl
@[simp] theorem State.writeWithFlag_ibPc (x : Nibble) (r f : Byte) : (State.writeWithFlag s x r f).ibPc = s.ibPc := rfl
@[simp] theorem State.writeWithFlag_ibOp (x : Nibble) (r f : Byte) : (State.writeWithFlag s x r f).ibOp = s.ibOp := rfl
@[simp] theorem State.writeWithFlag_ibInstr (x : Nibble) (r f : Byte) : (State.writeWithFlag s x r f).ibInstr = s.ibInstr := rfl
@[simp] theorem State.writeWithFlag_effect (x : Nibble) (r f : Byte) : (State.writeWithFlag s x r f).effect = s.effect := rfl
@[simp] theorem State.writeWithFlag_faultRecord (x : Nibble) (r f : Byte) : (State.writeWithFlag s x r f).faultRecord = s.faultRecord := rfl
@[simp] theorem State.writeWithFlag_fetchCount (x : Nibble) (r f : Byte) : (State.writeWithFlag s x r f).fetchCount = s.fetchCount := rfl
@[simp] theorem State.writeWithFlag_params (x : Nibble) (r f : Byte) : (State.writeWithFlag s x r f).params = s.params := rfl
@[simp] theorem State.writeWithFlag_hostQueue (x : Nibble) (r f : Byte) : (State.writeWithFlag s x r f).hostQueue = s.hostQueue := rfl
@[simp] theorem State.writeWithFlag_draws (x : Nibble) (r f : Byte) : (State.writeWithFlag s x r f).draws = s.draws := rfl

/-! ### State.storeBytes -/

@[simp] theorem State.storeBytes_v (bs : List Byte) : (State.storeBytes s bs).v = s.v := rfl
@[simp] theorem State.storeBytes_i (bs : List Byte) : (State.storeBytes s bs).i = s.i := rfl
@[simp] theorem State.storeBytes_pc (bs : List Byte) : (State.storeBytes s bs).pc = s.pc := rfl
@[simp] theorem State.storeBytes_stack (bs : List Byte) : (State.storeBytes s bs).stack = s.stack := rfl
@[simp] theorem State.storeBytes_dt (bs : List Byte) : (State.storeBytes s bs).dt = s.dt := rfl
@[simp] theorem State.storeBytes_st (bs : List Byte) : (State.storeBytes s bs).st = s.st := rfl
@[simp] theorem State.storeBytes_screen (bs : List Byte) : (State.storeBytes s bs).screen = s.screen := rfl
@[simp] theorem State.storeBytes_keys (bs : List Byte) : (State.storeBytes s bs).keys = s.keys := rfl
@[simp] theorem State.storeBytes_pressedKey (bs : List Byte) : (State.storeBytes s bs).pressedKey = s.pressedKey := rfl
@[simp] theorem State.storeBytes_mem (bs : List Byte) : (State.storeBytes s bs).mem = Memory.writeBytes s.mem s.i.toNat bs := rfl
@[simp] theorem State.storeBytes_runState (bs : List Byte) : (State.storeBytes s bs).runState = s.runState := rfl
@[simp] theorem State.storeBytes_ibPc (bs : List Byte) : (State.storeBytes s bs).ibPc = s.ibPc := rfl
@[simp] theorem State.storeBytes_ibOp (bs : List Byte) : (State.storeBytes s bs).ibOp = s.ibOp := rfl
@[simp] theorem State.storeBytes_ibInstr (bs : List Byte) : (State.storeBytes s bs).ibInstr = s.ibInstr := rfl
@[simp] theorem State.storeBytes_effect (bs : List Byte) : (State.storeBytes s bs).effect = s.effect := rfl
@[simp] theorem State.storeBytes_faultRecord (bs : List Byte) : (State.storeBytes s bs).faultRecord = s.faultRecord := rfl
@[simp] theorem State.storeBytes_fetchCount (bs : List Byte) : (State.storeBytes s bs).fetchCount = s.fetchCount := rfl
@[simp] theorem State.storeBytes_params (bs : List Byte) : (State.storeBytes s bs).params = s.params := rfl
@[simp] theorem State.storeBytes_hostQueue (bs : List Byte) : (State.storeBytes s bs).hostQueue = s.hostQueue := rfl
@[simp] theorem State.storeBytes_draws (bs : List Byte) : (State.storeBytes s bs).draws = s.draws := rfl

/-! ### State.enterFault -/

@[simp] theorem State.enterFault_v (r : FaultRecord) : (State.enterFault s r).v = s.v := rfl
@[simp] theorem State.enterFault_i (r : FaultRecord) : (State.enterFault s r).i = s.i := rfl
@[simp] theorem State.enterFault_pc (r : FaultRecord) : (State.enterFault s r).pc = s.pc := rfl
@[simp] theorem State.enterFault_stack (r : FaultRecord) : (State.enterFault s r).stack = s.stack := rfl
@[simp] theorem State.enterFault_dt (r : FaultRecord) : (State.enterFault s r).dt = s.dt := rfl
@[simp] theorem State.enterFault_st (r : FaultRecord) : (State.enterFault s r).st = s.st := rfl
@[simp] theorem State.enterFault_screen (r : FaultRecord) : (State.enterFault s r).screen = s.screen := rfl
@[simp] theorem State.enterFault_keys (r : FaultRecord) : (State.enterFault s r).keys = s.keys := rfl
@[simp] theorem State.enterFault_pressedKey (r : FaultRecord) : (State.enterFault s r).pressedKey = s.pressedKey := rfl
@[simp] theorem State.enterFault_mem (r : FaultRecord) : (State.enterFault s r).mem = s.mem := rfl
@[simp] theorem State.enterFault_runState (r : FaultRecord) : (State.enterFault s r).runState = .faulted := rfl
@[simp] theorem State.enterFault_ibPc (r : FaultRecord) : (State.enterFault s r).ibPc = s.ibPc := rfl
@[simp] theorem State.enterFault_ibOp (r : FaultRecord) : (State.enterFault s r).ibOp = s.ibOp := rfl
@[simp] theorem State.enterFault_ibInstr (r : FaultRecord) : (State.enterFault s r).ibInstr = s.ibInstr := rfl
@[simp] theorem State.enterFault_effect (r : FaultRecord) : (State.enterFault s r).effect = s.effect := rfl
@[simp] theorem State.enterFault_faultRecord (r : FaultRecord) : (State.enterFault s r).faultRecord = some r := rfl
@[simp] theorem State.enterFault_fetchCount (r : FaultRecord) : (State.enterFault s r).fetchCount = s.fetchCount := rfl
@[simp] theorem State.enterFault_params (r : FaultRecord) : (State.enterFault s r).params = s.params := rfl
@[simp] theorem State.enterFault_hostQueue (r : FaultRecord) : (State.enterFault s r).hostQueue = s.hostQueue := rfl
@[simp] theorem State.enterFault_draws (r : FaultRecord) : (State.enterFault s r).draws = s.draws := rfl

/-! ### State.raise -/

@[simp] theorem State.raise_v (k : FaultKind) (n : FaultInfo) : (State.raise s k n).v = s.v := rfl
@[simp] theorem State.raise_i (k : FaultKind) (n : FaultInfo) : (State.raise s k n).i = s.i := rfl
@[simp] theorem State.raise_pc (k : FaultKind) (n : FaultInfo) : (State.raise s k n).pc = s.pc := rfl
@[simp] theorem State.raise_stack (k : FaultKind) (n : FaultInfo) : (State.raise s k n).stack = s.stack := rfl
@[simp] theorem State.raise_dt (k : FaultKind) (n : FaultInfo) : (State.raise s k n).dt = s.dt := rfl
@[simp] theorem State.raise_st (k : FaultKind) (n : FaultInfo) : (State.raise s k n).st = s.st := rfl
@[simp] theorem State.raise_screen (k : FaultKind) (n : FaultInfo) : (State.raise s k n).screen = s.screen := rfl
@[simp] theorem State.raise_keys (k : FaultKind) (n : FaultInfo) : (State.raise s k n).keys = s.keys := rfl
@[simp] theorem State.raise_pressedKey (k : FaultKind) (n : FaultInfo) : (State.raise s k n).pressedKey = s.pressedKey := rfl
@[simp] theorem State.raise_mem (k : FaultKind) (n : FaultInfo) : (State.raise s k n).mem = s.mem := rfl
@[simp] theorem State.raise_runState (k : FaultKind) (n : FaultInfo) : (State.raise s k n).runState = .faulted := rfl
@[simp] theorem State.raise_ibPc (k : FaultKind) (n : FaultInfo) : (State.raise s k n).ibPc = s.ibPc := rfl
@[simp] theorem State.raise_ibOp (k : FaultKind) (n : FaultInfo) : (State.raise s k n).ibOp = s.ibOp := rfl
@[simp] theorem State.raise_ibInstr (k : FaultKind) (n : FaultInfo) : (State.raise s k n).ibInstr = s.ibInstr := rfl
@[simp] theorem State.raise_effect (k : FaultKind) (n : FaultInfo) : (State.raise s k n).effect = s.effect := rfl
@[simp] theorem State.raise_faultRecord (k : FaultKind) (n : FaultInfo) : (State.raise s k n).faultRecord = some ⟨k, s.ibPc, some s.ibOp, n⟩ := rfl
@[simp] theorem State.raise_fetchCount (k : FaultKind) (n : FaultInfo) : (State.raise s k n).fetchCount = s.fetchCount := rfl
@[simp] theorem State.raise_params (k : FaultKind) (n : FaultInfo) : (State.raise s k n).params = s.params := rfl
@[simp] theorem State.raise_hostQueue (k : FaultKind) (n : FaultInfo) : (State.raise s k n).hostQueue = s.hostQueue := rfl
@[simp] theorem State.raise_draws (k : FaultKind) (n : FaultInfo) : (State.raise s k n).draws = s.draws := rfl

/-! ### State.updateKeys -/

@[simp] theorem State.updateKeys_v (b : Vector Bool 16) : (State.updateKeys s b).v = s.v := rfl
@[simp] theorem State.updateKeys_i (b : Vector Bool 16) : (State.updateKeys s b).i = s.i := rfl
@[simp] theorem State.updateKeys_pc (b : Vector Bool 16) : (State.updateKeys s b).pc = s.pc := rfl
@[simp] theorem State.updateKeys_stack (b : Vector Bool 16) : (State.updateKeys s b).stack = s.stack := rfl
@[simp] theorem State.updateKeys_dt (b : Vector Bool 16) : (State.updateKeys s b).dt = s.dt := rfl
@[simp] theorem State.updateKeys_st (b : Vector Bool 16) : (State.updateKeys s b).st = s.st := rfl
@[simp] theorem State.updateKeys_screen (b : Vector Bool 16) : (State.updateKeys s b).screen = s.screen := rfl
@[simp] theorem State.updateKeys_keys (b : Vector Bool 16) : (State.updateKeys s b).keys = b := rfl
@[simp] theorem State.updateKeys_pressedKey (b : Vector Bool 16) : (State.updateKeys s b).pressedKey = s.pressedKey := rfl
@[simp] theorem State.updateKeys_mem (b : Vector Bool 16) : (State.updateKeys s b).mem = s.mem := rfl
@[simp] theorem State.updateKeys_runState (b : Vector Bool 16) : (State.updateKeys s b).runState = s.runState := rfl
@[simp] theorem State.updateKeys_ibPc (b : Vector Bool 16) : (State.updateKeys s b).ibPc = s.ibPc := rfl
@[simp] theorem State.updateKeys_ibOp (b : Vector Bool 16) : (State.updateKeys s b).ibOp = s.ibOp := rfl
@[simp] theorem State.updateKeys_ibInstr (b : Vector Bool 16) : (State.updateKeys s b).ibInstr = s.ibInstr := rfl
@[simp] theorem State.updateKeys_effect (b : Vector Bool 16) : (State.updateKeys s b).effect = s.effect := rfl
@[simp] theorem State.updateKeys_faultRecord (b : Vector Bool 16) : (State.updateKeys s b).faultRecord = s.faultRecord := rfl
@[simp] theorem State.updateKeys_fetchCount (b : Vector Bool 16) : (State.updateKeys s b).fetchCount = s.fetchCount := rfl
@[simp] theorem State.updateKeys_params (b : Vector Bool 16) : (State.updateKeys s b).params = s.params := rfl
@[simp] theorem State.updateKeys_hostQueue (b : Vector Bool 16) : (State.updateKeys s b).hostQueue = s.hostQueue := rfl
@[simp] theorem State.updateKeys_draws (b : Vector Bool 16) : (State.updateKeys s b).draws = s.draws := rfl

/-! ### State.deliverKey -/

@[simp] theorem State.deliverKey_v (x k : Nibble) : (State.deliverKey s x k).v = s.v.set x.toNat (k.setWidth 8) x.isLt := rfl
@[simp] theorem State.deliverKey_i (x k : Nibble) : (State.deliverKey s x k).i = s.i := rfl
@[simp] theorem State.deliverKey_pc (x k : Nibble) : (State.deliverKey s x k).pc = s.pc := rfl
@[simp] theorem State.deliverKey_stack (x k : Nibble) : (State.deliverKey s x k).stack = s.stack := rfl
@[simp] theorem State.deliverKey_dt (x k : Nibble) : (State.deliverKey s x k).dt = s.dt := rfl
@[simp] theorem State.deliverKey_st (x k : Nibble) : (State.deliverKey s x k).st = s.st := rfl
@[simp] theorem State.deliverKey_screen (x k : Nibble) : (State.deliverKey s x k).screen = s.screen := rfl
@[simp] theorem State.deliverKey_keys (x k : Nibble) : (State.deliverKey s x k).keys = s.keys := rfl
@[simp] theorem State.deliverKey_pressedKey (x k : Nibble) : (State.deliverKey s x k).pressedKey = k.setWidth 5 := rfl
@[simp] theorem State.deliverKey_mem (x k : Nibble) : (State.deliverKey s x k).mem = s.mem := rfl
@[simp] theorem State.deliverKey_runState (x k : Nibble) : (State.deliverKey s x k).runState = .fetch := rfl
@[simp] theorem State.deliverKey_ibPc (x k : Nibble) : (State.deliverKey s x k).ibPc = s.ibPc := rfl
@[simp] theorem State.deliverKey_ibOp (x k : Nibble) : (State.deliverKey s x k).ibOp = s.ibOp := rfl
@[simp] theorem State.deliverKey_ibInstr (x k : Nibble) : (State.deliverKey s x k).ibInstr = s.ibInstr := rfl
@[simp] theorem State.deliverKey_effect (x k : Nibble) : (State.deliverKey s x k).effect = s.effect := rfl
@[simp] theorem State.deliverKey_faultRecord (x k : Nibble) : (State.deliverKey s x k).faultRecord = s.faultRecord := rfl
@[simp] theorem State.deliverKey_fetchCount (x k : Nibble) : (State.deliverKey s x k).fetchCount = s.fetchCount := rfl
@[simp] theorem State.deliverKey_params (x k : Nibble) : (State.deliverKey s x k).params = s.params := rfl
@[simp] theorem State.deliverKey_hostQueue (x k : Nibble) : (State.deliverKey s x k).hostQueue = s.hostQueue := rfl
@[simp] theorem State.deliverKey_draws (x k : Nibble) : (State.deliverKey s x k).draws = s.draws := rfl

/-! ### State.cancelWait -/

@[simp] theorem State.cancelWait_v : (State.cancelWait s).v = s.v := rfl
@[simp] theorem State.cancelWait_i : (State.cancelWait s).i = s.i := rfl
@[simp] theorem State.cancelWait_pc : (State.cancelWait s).pc = s.pc := rfl
@[simp] theorem State.cancelWait_stack : (State.cancelWait s).stack = s.stack := rfl
@[simp] theorem State.cancelWait_dt : (State.cancelWait s).dt = s.dt := rfl
@[simp] theorem State.cancelWait_st : (State.cancelWait s).st = s.st := rfl
@[simp] theorem State.cancelWait_screen : (State.cancelWait s).screen = s.screen := rfl
@[simp] theorem State.cancelWait_keys : (State.cancelWait s).keys = s.keys := rfl
@[simp] theorem State.cancelWait_pressedKey : (State.cancelWait s).pressedKey = Config.noKey := rfl
@[simp] theorem State.cancelWait_mem : (State.cancelWait s).mem = s.mem := rfl
@[simp] theorem State.cancelWait_runState : (State.cancelWait s).runState = .halted := rfl
@[simp] theorem State.cancelWait_ibPc : (State.cancelWait s).ibPc = s.ibPc := rfl
@[simp] theorem State.cancelWait_ibOp : (State.cancelWait s).ibOp = s.ibOp := rfl
@[simp] theorem State.cancelWait_ibInstr : (State.cancelWait s).ibInstr = s.ibInstr := rfl
@[simp] theorem State.cancelWait_effect : (State.cancelWait s).effect = s.effect := rfl
@[simp] theorem State.cancelWait_faultRecord : (State.cancelWait s).faultRecord = s.faultRecord := rfl
@[simp] theorem State.cancelWait_fetchCount : (State.cancelWait s).fetchCount = s.fetchCount := rfl
@[simp] theorem State.cancelWait_params : (State.cancelWait s).params = s.params := rfl
@[simp] theorem State.cancelWait_hostQueue : (State.cancelWait s).hostQueue = s.hostQueue := rfl
@[simp] theorem State.cancelWait_draws : (State.cancelWait s).draws = s.draws := rfl

/-! ### State.timerTick -/

@[simp] theorem State.timerTick_v : (State.timerTick s).v = s.v := rfl
@[simp] theorem State.timerTick_i : (State.timerTick s).i = s.i := rfl
@[simp] theorem State.timerTick_pc : (State.timerTick s).pc = s.pc := rfl
@[simp] theorem State.timerTick_stack : (State.timerTick s).stack = s.stack := rfl
@[simp] theorem State.timerTick_dt : (State.timerTick s).dt = countDown (State.tickDue s) s.dt := rfl
@[simp] theorem State.timerTick_st : (State.timerTick s).st = countDown (State.tickDue s) s.st := rfl
@[simp] theorem State.timerTick_screen : (State.timerTick s).screen = s.screen := rfl
@[simp] theorem State.timerTick_keys : (State.timerTick s).keys = s.keys := rfl
@[simp] theorem State.timerTick_pressedKey : (State.timerTick s).pressedKey = s.pressedKey := rfl
@[simp] theorem State.timerTick_mem : (State.timerTick s).mem = s.mem := rfl
@[simp] theorem State.timerTick_runState : (State.timerTick s).runState = s.runState := rfl
@[simp] theorem State.timerTick_ibPc : (State.timerTick s).ibPc = s.ibPc := rfl
@[simp] theorem State.timerTick_ibOp : (State.timerTick s).ibOp = s.ibOp := rfl
@[simp] theorem State.timerTick_ibInstr : (State.timerTick s).ibInstr = s.ibInstr := rfl
@[simp] theorem State.timerTick_effect : (State.timerTick s).effect = s.effect := rfl
@[simp] theorem State.timerTick_faultRecord : (State.timerTick s).faultRecord = s.faultRecord := rfl
@[simp] theorem State.timerTick_fetchCount : (State.timerTick s).fetchCount = if State.tickDue s then 0 else s.fetchCount + 1 := rfl
@[simp] theorem State.timerTick_params : (State.timerTick s).params = s.params := rfl
@[simp] theorem State.timerTick_hostQueue : (State.timerTick s).hostQueue = s.hostQueue := rfl
@[simp] theorem State.timerTick_draws : (State.timerTick s).draws = s.draws := rfl

/-! ### State.buffer -/

@[simp] theorem State.buffer_v (j : Instr) : (State.buffer s j).v = s.v := rfl
@[simp] theorem State.buffer_i (j : Instr) : (State.buffer s j).i = s.i := rfl
@[simp] theorem State.buffer_pc (j : Instr) : (State.buffer s j).pc = s.pc := rfl
@[simp] theorem State.buffer_stack (j : Instr) : (State.buffer s j).stack = s.stack := rfl
@[simp] theorem State.buffer_dt (j : Instr) : (State.buffer s j).dt = s.dt := rfl
@[simp] theorem State.buffer_st (j : Instr) : (State.buffer s j).st = s.st := rfl
@[simp] theorem State.buffer_screen (j : Instr) : (State.buffer s j).screen = s.screen := rfl
@[simp] theorem State.buffer_keys (j : Instr) : (State.buffer s j).keys = s.keys := rfl
@[simp] theorem State.buffer_pressedKey (j : Instr) : (State.buffer s j).pressedKey = s.pressedKey := rfl
@[simp] theorem State.buffer_mem (j : Instr) : (State.buffer s j).mem = s.mem := rfl
@[simp] theorem State.buffer_runState (j : Instr) : (State.buffer s j).runState = if j.sideEffect = .blocksOnKey then .waitKey else .execute := rfl
@[simp] theorem State.buffer_ibPc (j : Instr) : (State.buffer s j).ibPc = s.ibPc := rfl
@[simp] theorem State.buffer_ibOp (j : Instr) : (State.buffer s j).ibOp = s.ibOp := rfl
@[simp] theorem State.buffer_ibInstr (j : Instr) : (State.buffer s j).ibInstr = some j := rfl
@[simp] theorem State.buffer_effect (j : Instr) : (State.buffer s j).effect = j.sideEffect := rfl
@[simp] theorem State.buffer_faultRecord (j : Instr) : (State.buffer s j).faultRecord = s.faultRecord := rfl
@[simp] theorem State.buffer_fetchCount (j : Instr) : (State.buffer s j).fetchCount = s.fetchCount := rfl
@[simp] theorem State.buffer_params (j : Instr) : (State.buffer s j).params = s.params := rfl
@[simp] theorem State.buffer_hostQueue (j : Instr) : (State.buffer s j).hostQueue = s.hostQueue := rfl
@[simp] theorem State.buffer_draws (j : Instr) : (State.buffer s j).draws = s.draws := rfl

/-! ### State.toFetch -/

@[simp] theorem State.toFetch_v : (State.toFetch s).v = s.v := rfl
@[simp] theorem State.toFetch_i : (State.toFetch s).i = s.i := rfl
@[simp] theorem State.toFetch_pc : (State.toFetch s).pc = s.pc := rfl
@[simp] theorem State.toFetch_stack : (State.toFetch s).stack = s.stack := rfl
@[simp] theorem State.toFetch_dt : (State.toFetch s).dt = s.dt := rfl
@[simp] theorem State.toFetch_st : (State.toFetch s).st = s.st := rfl
@[simp] theorem State.toFetch_screen : (State.toFetch s).screen = s.screen := rfl
@[simp] theorem State.toFetch_keys : (State.toFetch s).keys = s.keys := rfl
@[simp] theorem State.toFetch_pressedKey : (State.toFetch s).pressedKey = s.pressedKey := rfl
@[simp] theorem State.toFetch_mem : (State.toFetch s).mem = s.mem := rfl
@[simp] theorem State.toFetch_runState : (State.toFetch s).runState = .fetch := rfl
@[simp] theorem State.toFetch_ibPc : (State.toFetch s).ibPc = s.ibPc := rfl
@[simp] theorem State.toFetch_ibOp : (State.toFetch s).ibOp = s.ibOp := rfl
@[simp] theorem State.toFetch_ibInstr : (State.toFetch s).ibInstr = s.ibInstr := rfl
@[simp] theorem State.toFetch_effect : (State.toFetch s).effect = s.effect := rfl
@[simp] theorem State.toFetch_faultRecord : (State.toFetch s).faultRecord = s.faultRecord := rfl
@[simp] theorem State.toFetch_fetchCount : (State.toFetch s).fetchCount = s.fetchCount := rfl
@[simp] theorem State.toFetch_params : (State.toFetch s).params = s.params := rfl
@[simp] theorem State.toFetch_hostQueue : (State.toFetch s).hostQueue = s.hostQueue := rfl
@[simp] theorem State.toFetch_draws : (State.toFetch s).draws = s.draws := rfl
@[simp] theorem State.reg_toFetch (r : Nibble) : State.reg (State.toFetch s) r = State.reg s r := rfl

/-! ### State.skipIf: the program counter or nothing -/

@[simp] theorem State.skipIf_v (c : Bool) : (State.skipIf s c).v = s.v := by cases c <;> rfl
@[simp] theorem State.skipIf_i (c : Bool) : (State.skipIf s c).i = s.i := by cases c <;> rfl
@[simp] theorem State.skipIf_pc (c : Bool) : (State.skipIf s c).pc = if c then s.pc + 2#16 else s.pc := by
  cases c <;> rfl
@[simp] theorem State.skipIf_stack (c : Bool) : (State.skipIf s c).stack = s.stack := by cases c <;> rfl
@[simp] theorem State.skipIf_dt (c : Bool) : (State.skipIf s c).dt = s.dt := by cases c <;> rfl
@[simp] theorem State.skipIf_st (c : Bool) : (State.skipIf s c).st = s.st := by cases c <;> rfl
@[simp] theorem State.skipIf_screen (c : Bool) : (State.skipIf s c).screen = s.screen := by cases c <;> rfl
@[simp] theorem State.skipIf_keys (c : Bool) : (State.skipIf s c).keys = s.keys := by cases c <;> rfl
@[simp] theorem State.skipIf_pressedKey (c : Bool) : (State.skipIf s c).pressedKey = s.pressedKey := by cases c <;> rfl
@[simp] theorem State.skipIf_mem (c : Bool) : (State.skipIf s c).mem = s.mem := by cases c <;> rfl
@[simp] theorem State.skipIf_runState (c : Bool) : (State.skipIf s c).runState = s.runState := by cases c <;> rfl
@[simp] theorem State.skipIf_ibPc (c : Bool) : (State.skipIf s c).ibPc = s.ibPc := by cases c <;> rfl
@[simp] theorem State.skipIf_ibOp (c : Bool) : (State.skipIf s c).ibOp = s.ibOp := by cases c <;> rfl
@[simp] theorem State.skipIf_ibInstr (c : Bool) : (State.skipIf s c).ibInstr = s.ibInstr := by cases c <;> rfl
@[simp] theorem State.skipIf_effect (c : Bool) : (State.skipIf s c).effect = s.effect := by cases c <;> rfl
@[simp] theorem State.skipIf_faultRecord (c : Bool) : (State.skipIf s c).faultRecord = s.faultRecord := by cases c <;> rfl
@[simp] theorem State.skipIf_fetchCount (c : Bool) : (State.skipIf s c).fetchCount = s.fetchCount := by cases c <;> rfl
@[simp] theorem State.skipIf_params (c : Bool) : (State.skipIf s c).params = s.params := by cases c <;> rfl
@[simp] theorem State.skipIf_hostQueue (c : Bool) : (State.skipIf s c).hostQueue = s.hostQueue := by cases c <;> rfl
@[simp] theorem State.skipIf_draws (c : Bool) : (State.skipIf s c).draws = s.draws := by cases c <;> rfl

/-! ### Reading a register -/

@[simp] theorem State.reg_skipIf (c : Bool) (r : Nibble) : State.reg (State.skipIf s c) r = State.reg s r := by
  cases c <;> rfl

@[simp] theorem State.reg_setReg_same (x : Nibble) (b : Byte) : State.reg (State.setReg s x b) x = b := by
  simp [State.reg, State.setReg]

theorem State.reg_setReg_other {x r : Nibble} (b : Byte) (h : r ≠ x) :
    State.reg (State.setReg s x b) r = State.reg s r := by
  have hne : x.toNat ≠ r.toNat := fun e => h (BitVec.eq_of_toNat_eq e.symm)
  simp [State.reg, State.setReg, hne]

theorem State.reg_setReg (x r : Nibble) (b : Byte) :
    State.reg (State.setReg s x b) r = if r = x then b else State.reg s r := by
  split
  · next h => subst h; simp
  · next h => exact State.reg_setReg_other s b h

/-- A state with the same registers reads the same. -/
theorem State.reg_congr {s t : State} (h : t.v = s.v) (r : Nibble) : State.reg t r = State.reg s r := by
  simp [State.reg, h]

/-- VF ends holding the flag, `V[x]` the result unless x is 15, and every other register is as before (R173). -/
theorem State.reg_writeWithFlag (x r : Nibble) (result flag : Byte) :
    State.reg (State.writeWithFlag s x result flag) r =
      if r = 0xF#4 then flag else if r = x then result else State.reg s r := by
  simp only [State.writeWithFlag, State.setVF, State.reg_setReg]

end Sys2Proof.Machine
end

