-- ==== Sys2Proof/Laws/Cycle.lean ====
section
/-! SUPPORT. What each transition of the state machine answers, said once. -/

namespace Sys2Proof.Machine

theorem fetchable_iff (pc : Word) :
    fetchable pc = true ↔ pc.toNat % 2 = 0 ∧ 0x200 ≤ pc.toNat ∧ pc.toNat ≤ 0xFFFE := by
  simp [fetchable, and_assoc]

/-- A fetch at a good `pc`. -/
theorem fetchStep_ok (s : State) (h : fetchable s.pc = true) :
    fetchStep s = State.timerTick
      { s with ibPc := s.pc, ibOp := fetchWord s.mem s.pc, pc := s.pc + 2#16, runState := .decode } := by
  simp [fetchStep, h]

/-- A fetch at a bad `pc`. -/
theorem fetchStep_bad (s : State) (h : fetchable s.pc = false) :
    fetchStep s = State.enterFault s ⟨.fetchOutOfRange, s.pc, none, .nothing⟩ := by
  simp [fetchStep, h]

/-- A decode of a legal word. -/
theorem decodeStep_instr (s : State) {i : Instr} (h : decode s.ibOp = .instr i) :
    decodeStep s = State.buffer s i := by
  simp [decodeStep, h]

/-- The address a word is placed at can be fetched from. -/
theorem fetchable_fetchAddr (s : State) : fetchable (State.fetchAddr s) = true := by
  unfold State.fetchAddr
  split
  · assumption
  · decide

/-- The word placed for the next fetch is the word fetched there. -/
theorem fetchWord_placeWord (s : State) (w : Word) (h : Memory.wf s.mem = true) :
    fetchWord (State.placeWord s w).mem (State.placeWord s w).pc = w := by
  have hf := (fetchable_iff _).mp (fetchable_fetchAddr s)
  have hb : (State.fetchAddr s).toNat + (bytesOfWord w).length ≤ Config.memSize := by
    simp [bytesOfWord, Config.memSize]; omega
  have h0 := Memory.read_writeBytes_inside hb h 0 (by simp [bytesOfWord])
  have h1 := Memory.read_writeBytes_inside hb h 1 (by simp [bytesOfWord])
  simp only [Nat.add_zero] at h0
  unfold fetchWord State.placeWord
  rw [h0, h1]
  exact wordOfBytes_bytesOfWord w

end Sys2Proof.Machine
end

