-- ==== Sys2Proof/Laws/PerInstr.lean ====
section
/-! SUPPORT. Per instruction: the encoded word has the row's fixed bits (`30_encoding.md` rule R86). -/

namespace Sys2Proof.Laws.MaskMatch

/-- The word of an instruction agrees with the row's match on the row's mask (R86). -/
def Statement (i : Instr) : Prop := encode i &&& i.mask = i.pattern

/-- Masking a packed word masks each field: format XYN. -/
theorem packXYN_and (h x y n h' x' y' n' : Nibble) :
    packXYN h x y n &&& packXYN h' x' y' n' = packXYN (h &&& h') (x &&& x') (y &&& y') (n &&& n') := by
  unfold packXYN
  exact (BitVec.and_append (w := 8) (v := 8)).trans (by rw [BitVec.and_append, BitVec.and_append])

/-- Masking a packed word masks each field: format XKK. -/
theorem packXKK_and (h x : Nibble) (kk : Byte) (h' x' : Nibble) (kk' : Byte) :
    packXKK h x kk &&& packXKK h' x' kk' = packXKK (h &&& h') (x &&& x') (kk &&& kk') := by
  unfold packXKK
  exact (BitVec.and_append (w := 8) (v := 8)).trans (by rw [BitVec.and_append])

/-- Masking a packed word masks each field: format NNN. -/
theorem packNNN_and (h : Nibble) (nnn : Addr) (h' : Nibble) (nnn' : Addr) :
    packNNN h nnn &&& packNNN h' nnn' = packNNN (h &&& h') (nnn &&& nnn') :=
  BitVec.and_append (w := 4) (v := 12)

theorem cls : Statement .cls := by unfold Statement; decide

theorem ret : Statement .ret := by unfold Statement; decide

theorem sys (nnn : Addr) : Statement (.sys nnn) := by
  show encode (.sys nnn) &&& packNNN 0xF#4 0x000#12 = _
  simp only [encode, packNNN_and, BitVec.and_zero]; rfl

theorem jp (nnn : Addr) : Statement (.jp nnn) := by
  show encode (.jp nnn) &&& packNNN 0xF#4 0x000#12 = _
  simp only [encode, packNNN_and, BitVec.and_zero]; rfl

theorem call (nnn : Addr) : Statement (.call nnn) := by
  show encode (.call nnn) &&& packNNN 0xF#4 0x000#12 = _
  simp only [encode, packNNN_and, BitVec.and_zero]; rfl

theorem seVxKk (x : Nibble) (kk : Byte) : Statement (.seVxKk x kk) := by
  show encode (.seVxKk x kk) &&& packXKK 0xF#4 0x0#4 0x00#8 = _
  simp only [encode, packXKK_and, BitVec.and_zero]; rfl

theorem sneVxKk (x : Nibble) (kk : Byte) : Statement (.sneVxKk x kk) := by
  show encode (.sneVxKk x kk) &&& packXKK 0xF#4 0x0#4 0x00#8 = _
  simp only [encode, packXKK_and, BitVec.and_zero]; rfl

theorem seVxVy (x y : Nibble) : Statement (.seVxVy x y) := by
  show encode (.seVxVy x y) &&& packXYN 0xF#4 0x0#4 0x0#4 0xF#4 = _
  simp only [encode, packXYN_and, BitVec.and_zero]; rfl

theorem ldVxKk (x : Nibble) (kk : Byte) : Statement (.ldVxKk x kk) := by
  show encode (.ldVxKk x kk) &&& packXKK 0xF#4 0x0#4 0x00#8 = _
  simp only [encode, packXKK_and, BitVec.and_zero]; rfl

theorem addVxKk (x : Nibble) (kk : Byte) : Statement (.addVxKk x kk) := by
  show encode (.addVxKk x kk) &&& packXKK 0xF#4 0x0#4 0x00#8 = _
  simp only [encode, packXKK_and, BitVec.and_zero]; rfl

theorem ldVxVy (x y : Nibble) : Statement (.ldVxVy x y) := by
  show encode (.ldVxVy x y) &&& packXYN 0xF#4 0x0#4 0x0#4 0xF#4 = _
  simp only [encode, packXYN_and, BitVec.and_zero]; rfl

theorem orVxVy (x y : Nibble) : Statement (.orVxVy x y) := by
  show encode (.orVxVy x y) &&& packXYN 0xF#4 0x0#4 0x0#4 0xF#4 = _
  simp only [encode, packXYN_and, BitVec.and_zero]; rfl

theorem andVxVy (x y : Nibble) : Statement (.andVxVy x y) := by
  show encode (.andVxVy x y) &&& packXYN 0xF#4 0x0#4 0x0#4 0xF#4 = _
  simp only [encode, packXYN_and, BitVec.and_zero]; rfl

theorem xorVxVy (x y : Nibble) : Statement (.xorVxVy x y) := by
  show encode (.xorVxVy x y) &&& packXYN 0xF#4 0x0#4 0x0#4 0xF#4 = _
  simp only [encode, packXYN_and, BitVec.and_zero]; rfl

theorem addVxVy (x y : Nibble) : Statement (.addVxVy x y) := by
  show encode (.addVxVy x y) &&& packXYN 0xF#4 0x0#4 0x0#4 0xF#4 = _
  simp only [encode, packXYN_and, BitVec.and_zero]; rfl

theorem subVxVy (x y : Nibble) : Statement (.subVxVy x y) := by
  show encode (.subVxVy x y) &&& packXYN 0xF#4 0x0#4 0x0#4 0xF#4 = _
  simp only [encode, packXYN_and, BitVec.and_zero]; rfl

theorem shrVx (x y : Nibble) : Statement (.shrVx x y) := by
  show encode (.shrVx x y) &&& packXYN 0xF#4 0x0#4 0x0#4 0xF#4 = _
  simp only [encode, packXYN_and, BitVec.and_zero]; rfl

theorem subnVxVy (x y : Nibble) : Statement (.subnVxVy x y) := by
  show encode (.subnVxVy x y) &&& packXYN 0xF#4 0x0#4 0x0#4 0xF#4 = _
  simp only [encode, packXYN_and, BitVec.and_zero]; rfl

theorem shlVx (x y : Nibble) : Statement (.shlVx x y) := by
  show encode (.shlVx x y) &&& packXYN 0xF#4 0x0#4 0x0#4 0xF#4 = _
  simp only [encode, packXYN_and, BitVec.and_zero]; rfl

theorem sneVxVy (x y : Nibble) : Statement (.sneVxVy x y) := by
  show encode (.sneVxVy x y) &&& packXYN 0xF#4 0x0#4 0x0#4 0xF#4 = _
  simp only [encode, packXYN_and, BitVec.and_zero]; rfl

theorem ldINnn (nnn : Addr) : Statement (.ldINnn nnn) := by
  show encode (.ldINnn nnn) &&& packNNN 0xF#4 0x000#12 = _
  simp only [encode, packNNN_and, BitVec.and_zero]; rfl

theorem jpV0Nnn (nnn : Addr) : Statement (.jpV0Nnn nnn) := by
  show encode (.jpV0Nnn nnn) &&& packNNN 0xF#4 0x000#12 = _
  simp only [encode, packNNN_and, BitVec.and_zero]; rfl

theorem rndVxKk (x : Nibble) (kk : Byte) : Statement (.rndVxKk x kk) := by
  show encode (.rndVxKk x kk) &&& packXKK 0xF#4 0x0#4 0x00#8 = _
  simp only [encode, packXKK_and, BitVec.and_zero]; rfl

theorem drw (x y n : Nibble) : Statement (.drw x y n) := by
  show encode (.drw x y n) &&& packXYN 0xF#4 0x0#4 0x0#4 0x0#4 = _
  simp only [encode, packXYN_and, BitVec.and_zero]; rfl

theorem skpVx (x : Nibble) : Statement (.skpVx x) := by
  show encode (.skpVx x) &&& packXKK 0xF#4 0x0#4 0xFF#8 = _
  simp only [encode, packXKK_and, BitVec.and_zero]; rfl

theorem sknpVx (x : Nibble) : Statement (.sknpVx x) := by
  show encode (.sknpVx x) &&& packXKK 0xF#4 0x0#4 0xFF#8 = _
  simp only [encode, packXKK_and, BitVec.and_zero]; rfl

theorem ldVxDt (x : Nibble) : Statement (.ldVxDt x) := by
  show encode (.ldVxDt x) &&& packXKK 0xF#4 0x0#4 0xFF#8 = _
  simp only [encode, packXKK_and, BitVec.and_zero]; rfl

theorem ldVxK (x : Nibble) : Statement (.ldVxK x) := by
  show encode (.ldVxK x) &&& packXKK 0xF#4 0x0#4 0xFF#8 = _
  simp only [encode, packXKK_and, BitVec.and_zero]; rfl

theorem ldDtVx (x : Nibble) : Statement (.ldDtVx x) := by
  show encode (.ldDtVx x) &&& packXKK 0xF#4 0x0#4 0xFF#8 = _
  simp only [encode, packXKK_and, BitVec.and_zero]; rfl

theorem ldStVx (x : Nibble) : Statement (.ldStVx x) := by
  show encode (.ldStVx x) &&& packXKK 0xF#4 0x0#4 0xFF#8 = _
  simp only [encode, packXKK_and, BitVec.and_zero]; rfl

theorem addIVx (x : Nibble) : Statement (.addIVx x) := by
  show encode (.addIVx x) &&& packXKK 0xF#4 0x0#4 0xFF#8 = _
  simp only [encode, packXKK_and, BitVec.and_zero]; rfl

theorem ldFVx (x : Nibble) : Statement (.ldFVx x) := by
  show encode (.ldFVx x) &&& packXKK 0xF#4 0x0#4 0xFF#8 = _
  simp only [encode, packXKK_and, BitVec.and_zero]; rfl

theorem ldBVx (x : Nibble) : Statement (.ldBVx x) := by
  show encode (.ldBVx x) &&& packXKK 0xF#4 0x0#4 0xFF#8 = _
  simp only [encode, packXKK_and, BitVec.and_zero]; rfl

theorem ldMemVx (x : Nibble) : Statement (.ldMemVx x) := by
  show encode (.ldMemVx x) &&& packXKK 0xF#4 0x0#4 0xFF#8 = _
  simp only [encode, packXKK_and, BitVec.and_zero]; rfl

theorem ldVxMem (x : Nibble) : Statement (.ldVxMem x) := by
  show encode (.ldVxMem x) &&& packXKK 0xF#4 0x0#4 0xFF#8 = _
  simp only [encode, packXKK_and, BitVec.and_zero]; rfl

end Sys2Proof.Laws.MaskMatch
end

