-- ==== Sys2Proof/Laws/Registers.lean ====
section
/-! SUPPORT. The laws of the block register operations and of the I-relative accesses. -/

namespace Sys2Proof.Machine

/-- A block load puts byte j of the list into register `k + j` and leaves every other register as it was. -/
theorem getElem_writeRegs (v : Vector Byte 16) (k : Nat) (bs : List Byte) (r : Nat) (hr : r < 16) :
    (writeRegs v k bs)[r] = if k ≤ r then bs[r - k]?.getD v[r] else v[r] := by
  induction bs generalizing v k with
  | nil => simp [writeRegs]
  | cons b rest ih =>
    simp only [writeRegs, ih]
    by_cases h1 : k + 1 ≤ r
    · have h2 : k ≠ r := by omega
      have h3 : r - k = (r - (k + 1)) + 1 := by omega
      simp [h1, Nat.le_of_succ_le h1, h3, h2]
    · by_cases h4 : k = r
      · subst h4; simp
      · have h5 : ¬ k ≤ r := by omega
        simp [h1, h5, h4]

/-- The list `V[0]` to `V[x]` has `x + 1` entries. -/
@[simp] theorem State.length_regsUpTo (s : State) (x : Nibble) : (State.regsUpTo s x).length = blockLen x := by
  have := x.isLt
  simp only [State.regsUpTo, blockLen, List.length_take, Vector.length_toList]
  omega

/-- Its k-th entry is `V[k]`. -/
theorem State.getElem_regsUpTo (s : State) (x k : Nibble) (h : k.toNat < (State.regsUpTo s x).length) :
    (State.regsUpTo s x)[k.toNat] = State.reg s k := by
  simp [State.regsUpTo, State.reg]

@[simp] theorem length_decimalDigits (b : Byte) : (decimalDigits b).length = 3 := rfl

/-- An access in bounds lies inside the address space. -/
theorem inBounds_iff (a : Word) (n : Nat) : inBounds a n = true ↔ a.toNat + n ≤ Config.memSize := by
  simp [inBounds]

theorem inBounds_of_le {a : Word} {n : Nat} (h : a.toNat + n ≤ 65536) : inBounds a n = true :=
  (inBounds_iff a n).mpr h

/-- An access whose last byte would be beyond 0xFFFF is out of bounds. -/
theorem inBounds_of_gt {a : Word} {n : Nat} (h : 65536 < a.toNat + n) : inBounds a n = false := by
  rw [Bool.eq_false_iff, Ne, inBounds_iff, Config.memSize]
  omega

/-- A block store in bounds keeps the canonical form of memory. -/
theorem State.wf_storeBytes (s : State) (bs : List Byte) (hb : inBounds s.i bs.length = true)
    (h : Memory.wf s.mem = true) : Memory.wf (State.storeBytes s bs).mem = true :=
  Memory.wf_writeBytes ((inBounds_iff ..).mp hb) h

/-- Every key index below 16 names a key flag. -/
theorem State.keyFlag?_lt (s : State) (k : Byte) (h : k.toNat < 16) :
    State.keyFlag? s k = some s.keys[k.toNat] := by
  simp [State.keyFlag?, h]

/-- No key index from 16 on names one. -/
theorem State.keyFlag?_ge (s : State) (k : Byte) (h : 16 ≤ k.toNat) : State.keyFlag? s k = none := by
  simp [State.keyFlag?, h]

end Sys2Proof.Machine
end

