-- ==== Sys2Proof/Laws/Screen.lean ====
section
/-! SUPPORT. The laws of one pixel, and everything a sprite blit does to the screen and to the collision flag. -/

namespace Sys2Proof.Machine

/-- Flipping a pixel of the screen changes that pixel and no other. -/
theorem pixel_flipPixel (screen : Vector (BitVec 64) 32) {py px qy qx : Nat} (hy : py < 32) (hx : px < 64) :
    pixel (flipPixel screen py px) qy qx = (pixel screen qy qx ^^ decide (qy = py ∧ qx = px)) := by
  unfold pixel flipPixel
  by_cases h : py = qy
  · subst h
    by_cases hq : qx = px
    · subst hq; simp [hy, hx]
    · have : px ≠ qx := fun e => hq e.symm
      simp [hy, hq, this]
  · have h' : ¬ qy = py := fun e => h e.symm
    simp [h, h']

/-- One bit of a sprite row flips its pixel if it is set, and no other. -/
theorem pixel_drawBit (cx cy : Byte) (r : Nat) (row : Byte) (cv : Canvas) (c qy qx : Nat) :
    pixel (drawBit cx cy r row cv c).screen qy qx =
      (pixel cv.screen qy qx ^^ decide (row.getLsbD (7 - c) = true ∧
        qy = (cy.toNat + r) % 32 ∧ qx = (cx.toNat + c) % 64)) := by
  unfold drawBit plot
  split
  · next h =>
    simp only [Config.screenWidth, Config.screenHeight, h, true_and]
    exact pixel_flipPixel _ (by omega) (by omega)
  · next h => simp [h]

theorem hit_drawBit (cx cy : Byte) (r : Nat) (row : Byte) (cv : Canvas) (c : Nat) :
    (drawBit cx cy r row cv c).hit =
      (cv.hit || (row.getLsbD (7 - c) && pixel cv.screen ((cy.toNat + r) % 32) ((cx.toNat + c) % 64))) := by
  unfold drawBit plot
  split <;> simp_all [Config.screenWidth, Config.screenHeight]

/-- Columns of a sprite row drawn one after another flip the pixels under its set bits, each once. -/
theorem pixel_foldl_drawBit (cx cy : Byte) (r : Nat) (row : Byte) (qy qx : Nat) (cs : List Nat) (hn : cs.Nodup)
    (h8 : ∀ c ∈ cs, c < 8) (cv : Canvas) :
    pixel (cs.foldl (drawBit cx cy r row) cv).screen qy qx =
      (pixel cv.screen qy qx ^^ decide (∃ c ∈ cs, row.getLsbD (7 - c) = true ∧
        qy = (cy.toNat + r) % 32 ∧ qx = (cx.toNat + c) % 64)) := by
  induction cs generalizing cv with
  | nil => simp
  | cons c cs ih =>
    have h8' : c < 8 := h8 c (by simp)
    have hc := (List.nodup_cons.mp hn).1
    rw [List.foldl_cons, ih (List.nodup_cons.mp hn).2 (fun d hd => h8 d (by simp [hd])), pixel_drawBit, Bool.xor_assoc]
    congr 1
    by_cases h : row.getLsbD (7 - c) = true ∧ qy = (cy.toNat + r) % 32 ∧ qx = (cx.toNat + c) % 64
    · have hno : ¬ ∃ d ∈ cs, row.getLsbD (7 - d) = true ∧ qy = (cy.toNat + r) % 32 ∧ qx = (cx.toNat + d) % 64 := by
        rintro ⟨d, hd, -, -, e⟩
        have hd8 : d < 8 := h8 d (by simp [hd])
        have : c = d := by have := h.2.2; omega
        exact hc (this ▸ hd)
      have hyes : ∃ d ∈ c :: cs, row.getLsbD (7 - d) = true ∧ qy = (cy.toNat + r) % 32 ∧ qx = (cx.toNat + d) % 64 :=
        ⟨c, by simp, h⟩
      rw [decide_eq_true h, decide_eq_false hno, decide_eq_true hyes]
      rfl
    · simp only [h, decide_false, Bool.false_xor, List.exists_mem_cons_iff, false_or]

theorem hit_foldl_drawBit (cx cy : Byte) (r : Nat) (row : Byte) (cs : List Nat) (hn : cs.Nodup)
    (h8 : ∀ c ∈ cs, c < 8) (cv : Canvas) :
    (cs.foldl (drawBit cx cy r row) cv).hit = true ↔ cv.hit = true ∨ ∃ c ∈ cs, row.getLsbD (7 - c) = true ∧
      pixel cv.screen ((cy.toNat + r) % 32) ((cx.toNat + c) % 64) = true := by
  induction cs generalizing cv with
  | nil => simp
  | cons c cs ih =>
    have h8' : c < 8 := h8 c (by simp)
    have hc := (List.nodup_cons.mp hn).1
    rw [List.foldl_cons, ih (List.nodup_cons.mp hn).2 (fun d hd => h8 d (by simp [hd])), hit_drawBit]
    have key : ∀ d ∈ cs, pixel (drawBit cx cy r row cv c).screen ((cy.toNat + r) % 32) ((cx.toNat + d) % 64) =
        pixel cv.screen ((cy.toNat + r) % 32) ((cx.toNat + d) % 64) := by
      intro d hd
      have hd8 : d < 8 := h8 d (by simp [hd])
      have hne : c ≠ d := fun e => hc (e ▸ hd)
      have : ¬ (cx.toNat + d) % 64 = (cx.toNat + c) % 64 := by omega
      simp [pixel_drawBit, this]
    simp only [Bool.or_eq_true, Bool.and_eq_true, List.exists_mem_cons_iff, or_assoc]
    refine or_congr_right (or_congr_right (exists_congr fun d => and_congr_right fun hd => ?_))
    rw [key d hd]

/-- The set bits of a sprite row `row`, drawn at (cx, cy) as row `r`, on the pixel (qy, qx). -/
def RowOn (cx cy : Byte) (r : Nat) (row : Byte) (qy qx : Nat) : Prop :=
  ∃ c, c < 8 ∧ row.getLsbD (7 - c) = true ∧ qy = (cy.toNat + r) % 32 ∧ qx = (cx.toNat + c) % 64

theorem mem_cols (c : Nat) : c ∈ [0, 1, 2, 3, 4, 5, 6, 7] ↔ c < 8 := by
  simp only [List.mem_cons, List.not_mem_nil, or_false]; omega

theorem pixel_drawRow (cx cy : Byte) (r : Nat) (row : Byte) (cv : Canvas) (qy qx : Nat) :
    pixel (drawRow cx cy r row cv).screen qy qx = true ↔
      ¬ (pixel cv.screen qy qx = true ↔ RowOn cx cy r row qy qx) := by
  unfold drawRow
  rw [pixel_foldl_drawBit _ _ _ _ _ _ _ (by decide) (fun c h => (mem_cols c).mp h)]
  simp only [mem_cols, RowOn]
  cases pixel cv.screen qy qx <;> simp

theorem hit_drawRow (cx cy : Byte) (r : Nat) (row : Byte) (cv : Canvas) :
    (drawRow cx cy r row cv).hit = true ↔
      cv.hit = true ∨ ∃ qy qx, RowOn cx cy r row qy qx ∧ pixel cv.screen qy qx = true := by
  unfold drawRow
  rw [hit_foldl_drawBit _ _ _ _ _ (by decide) (fun c h => (mem_cols c).mp h)]
  simp only [mem_cols, RowOn]
  refine or_congr_right ⟨?_, ?_⟩
  · rintro ⟨c, h1, h2, h3⟩; exact ⟨_, _, ⟨c, h1, h2, rfl, rfl⟩, h3⟩
  · rintro ⟨_, _, ⟨c, h1, h2, rfl, rfl⟩, h3⟩; exact ⟨c, h1, h2, h3⟩

/-- The rows of a sprite from row `r` on: its set bits on the pixel (qy, qx). -/
def RowsOn (cx cy : Byte) (r : Nat) (rows : List Byte) (qy qx : Nat) : Prop :=
  ∃ k row, rows[k]? = some row ∧ RowOn cx cy (r + k) row qy qx

theorem rowsOn_cons (cx cy : Byte) (r : Nat) (row : Byte) (rows : List Byte) (qy qx : Nat) :
    RowsOn cx cy r (row :: rows) qy qx ↔ RowOn cx cy r row qy qx ∨ RowsOn cx cy (r + 1) rows qy qx := by
  constructor
  · rintro ⟨k, b, hk, h⟩
    cases k with
    | zero => simp at hk; exact .inl (hk ▸ h)
    | succ k => exact .inr ⟨k, b, by simpa using hk, by rwa [show r + 1 + k = r + (k + 1) by omega]⟩
  · rintro (h | ⟨k, b, hk, h⟩)
    · exact ⟨0, row, by simp, h⟩
    · exact ⟨k + 1, b, by simpa using hk, by rwa [show r + (k + 1) = r + 1 + k by omega]⟩

theorem rowOn_rowsOn_disjoint {cx cy : Byte} {r : Nat} {row : Byte} {rows : List Byte} {qy qx : Nat}
    (hl : rows.length < 32) (h1 : RowOn cx cy r row qy qx) (h2 : RowsOn cx cy (r + 1) rows qy qx) : False := by
  obtain ⟨c, -, -, e1, -⟩ := h1
  obtain ⟨k, b, hk, d, -, -, e2, -⟩ := h2
  have : k < rows.length := (List.getElem?_eq_some_iff.mp hk).1
  omega

/-- Everything a blit does to the screen: the pixels under the sprite's set bits are flipped, and no other (R182, R183). -/
theorem pixel_drawRows (cx cy : Byte) (r : Nat) (rows : List Byte) (hl : rows.length ≤ 32) (cv : Canvas) (qy qx : Nat) :
    pixel (drawRows cx cy r rows cv).screen qy qx = true ↔
      ¬ (pixel cv.screen qy qx = true ↔ RowsOn cx cy r rows qy qx) := by
  induction rows generalizing r cv with
  | nil => simp [drawRows, RowsOn]
  | cons row rows ih =>
    simp only [List.length_cons] at hl
    rw [drawRows, ih _ (by omega), pixel_drawRow, rowsOn_cons]
    have := @rowOn_rowsOn_disjoint cx cy r row rows qy qx (by omega)
    tauto

/-- The collision flag of a blit: a pixel under a set bit was on (R183). -/
theorem hit_drawRows (cx cy : Byte) (r : Nat) (rows : List Byte) (hl : rows.length ≤ 32) (cv : Canvas) :
    (drawRows cx cy r rows cv).hit = true ↔
      cv.hit = true ∨ ∃ qy qx, RowsOn cx cy r rows qy qx ∧ pixel cv.screen qy qx = true := by
  induction rows generalizing r cv with
  | nil => simp [drawRows, RowsOn]
  | cons row rows ih =>
    simp only [List.length_cons] at hl
    rw [drawRows, ih _ (by omega), hit_drawRow, or_assoc]
    refine or_congr_right ?_
    simp only [pixel_drawRow, rowsOn_cons]
    have hd := fun qy qx => @rowOn_rowsOn_disjoint cx cy r row rows qy qx (by omega)
    constructor
    · rintro (⟨y, x, h, hp⟩ | ⟨y, x, h, hp⟩)
      · exact ⟨y, x, .inl h, hp⟩
      · exact ⟨y, x, .inr h, by have := hd y x; tauto⟩
    · rintro ⟨y, x, h | h, hp⟩
      · exact .inl ⟨y, x, h, hp⟩
      · exact .inr ⟨y, x, h, by have := hd y x; tauto⟩

/-- The set bits of the sprite `DRW` loads are those of `SpriteOn`. -/
theorem rowsOn_loadBytes (s : State) (x y n : Nibble) (qy qx : Nat) :
    RowsOn (State.reg s x) (State.reg s y) 0 (State.loadBytes s n.toNat) qy qx ↔ SpriteOn s x y n qy qx := by
  unfold State.loadBytes
  constructor
  · rintro ⟨k, b, hk, c, hc, hb, h1, h2⟩
    have hlt : k < n.toNat := by simpa using (List.getElem?_eq_some_iff.mp hk).1
    rw [Memory.getElem?_readBytes _ _ _ _ hlt] at hk
    cases hk
    exact ⟨k, c, hlt, hc, by simpa using h1, h2, hb⟩
  · rintro ⟨k, c, hlt, hc, h1, h2, hb⟩
    exact ⟨k, _, Memory.getElem?_readBytes _ _ _ _ hlt, c, hc, hb, by simpa using h1, h2⟩

end Sys2Proof.Machine
end

