-- ==== Sys2Proof/Tests/Slice0.lean ====
section
/-! SUPPORT. The model's own tests: ill-formed terms, every form's word written out bit by bit, one-step tests from
`95_test_vectors.md` (each names its vector), and for every obligation with hypotheses a witness that meets them. -/

namespace Sys2Proof.Tests

open Sys2Proof.Machine

/-! ### The states tested on -/

/-- The state after reset, with a cadence of two fetches, so that the one fetch of a test ticks no timer. -/
def start : State := { State.reset with params := ⟨2, .fault⟩ }

/-- `start` with some registers set. -/
def regs : List (Nibble × Byte) → State
  | [] => start
  | (x, b) :: rest => State.setReg (regs rest) x b

/-- What a step answers when it is a next state. -/
def next? : Result → Option State
  | .next t => some t
  | .fault _ => none
  | .refused _ => none

/-- A reading of the state one step after the word `w` is placed at `pc`. -/
def after {α : Type} (s : State) (w : Nat) (f : State → α) : Option α := (next? (step (s.withFetchWord 16 w))).map f

/-- A fault as the vectors give it, by its code. -/
structure Seen where
  code : Nat
  pc : Word
  op : Option Word
  info : FaultInfo
  deriving DecidableEq, Repr

/-- The fault a step ends in. -/
def faultOf (t : State) : Option Seen := t.faultRecord.map fun r => ⟨r.kind.code, r.pc, r.op, r.info⟩

/-- A stack of `n` entries. -/
def deep (n : Nat) : State := { start with stack := List.replicate n 0x0300#16 }

/-- A bit of every pixel as a list of the columns that are on in row `py`. -/
def row (t : State) (py : Nat) : List Nat := (List.range 64).filter fun px => pixel t.screen py px

/-- The bytes of memory at `a`, `a + 1`, … -/
def bytes (t : State) (a n : Nat) : List Nat := (Memory.readBytes t.mem a n).map BitVec.toNat

/-- Key 10 pressed, the others not. -/
def keyA : Vector Bool 16 := (Vector.replicate 16 false).set 10 true

/-! ### Ill-formed terms (R83): each check of `wellFormed` refuses one -/

theorem test_sys_0E0_ill_formed : (Instr.sys 0x0E0#12).wellFormed = false := by decide
theorem test_sys_0EE_ill_formed : (Instr.sys 0x0EE#12).wellFormed = false := by decide
theorem test_sys_0E1_well_formed : (Instr.sys 0x0E1#12).wellFormed = true := by decide

/-! ### Decoding: one word of every row of the opcode map (R86), its bits written out -/

theorem test_decode_cls : decode 0b0000_0000_1110_0000#16 = .instr (.cls) := by decide
theorem test_decode_ret : decode 0b0000_0000_1110_1110#16 = .instr (.ret) := by decide
theorem test_decode_sys : decode 0b0000_1111_1110_0001#16 = .instr (.sys 0xFE1#12) := by decide
theorem test_decode_jp : decode 0b0001_0010_0011_0100#16 = .instr (.jp 0x234#12) := by decide
theorem test_decode_call : decode 0b0010_0100_0000_0001#16 = .instr (.call 0x401#12) := by decide
theorem test_decode_seVxKk : decode 0b0011_1010_0110_1000#16 = .instr (.seVxKk 0xA#4 0x68#8) := by decide
theorem test_decode_sneVxKk : decode 0b0100_0011_1110_0111#16 = .instr (.sneVxKk 0x3#4 0xE7#8) := by decide
theorem test_decode_seVxVy : decode 0b0101_1010_1011_0000#16 = .instr (.seVxVy 0xA#4 0xB#4) := by decide
theorem test_decode_ldVxKk : decode 0b0110_1110_1111_0001#16 = .instr (.ldVxKk 0xE#4 0xF1#8) := by decide
theorem test_decode_addVxKk : decode 0b0111_0011_0110_1000#16 = .instr (.addVxKk 0x3#4 0x68#8) := by decide
theorem test_decode_ldVxVy : decode 0b1000_0001_0010_0000#16 = .instr (.ldVxVy 0x1#4 0x2#4) := by decide
theorem test_decode_orVxVy : decode 0b1000_0001_0010_0001#16 = .instr (.orVxVy 0x1#4 0x2#4) := by decide
theorem test_decode_andVxVy : decode 0b1000_0001_0010_0010#16 = .instr (.andVxVy 0x1#4 0x2#4) := by decide
theorem test_decode_xorVxVy : decode 0b1000_0001_0010_0011#16 = .instr (.xorVxVy 0x1#4 0x2#4) := by decide
theorem test_decode_addVxVy : decode 0b1000_0001_0010_0100#16 = .instr (.addVxVy 0x1#4 0x2#4) := by decide
theorem test_decode_subVxVy : decode 0b1000_0001_0010_0101#16 = .instr (.subVxVy 0x1#4 0x2#4) := by decide
theorem test_decode_shrVx : decode 0b1000_1010_1011_0110#16 = .instr (.shrVx 0xA#4 0xB#4) := by decide
theorem test_decode_subnVxVy : decode 0b1000_0001_0010_0111#16 = .instr (.subnVxVy 0x1#4 0x2#4) := by decide
theorem test_decode_shlVx : decode 0b1000_1010_1011_1110#16 = .instr (.shlVx 0xA#4 0xB#4) := by decide
theorem test_decode_sneVxVy : decode 0b1001_1010_1011_0000#16 = .instr (.sneVxVy 0xA#4 0xB#4) := by decide
theorem test_decode_ldINnn : decode 0b1010_0000_0010_0011#16 = .instr (.ldINnn 0x023#12) := by decide
theorem test_decode_jpV0Nnn : decode 0b1011_0001_0010_0011#16 = .instr (.jpV0Nnn 0x123#12) := by decide
theorem test_decode_rndVxKk : decode 0b1100_0011_0000_1110#16 = .instr (.rndVxKk 0x3#4 0x0E#8) := by decide
theorem test_decode_drw : decode 0b1101_0001_0010_0101#16 = .instr (.drw 0x1#4 0x2#4 0x5#4) := by decide
theorem test_decode_skpVx : decode 0b1110_0101_1001_1110#16 = .instr (.skpVx 0x5#4) := by decide
theorem test_decode_sknpVx : decode 0b1110_0110_1010_0001#16 = .instr (.sknpVx 0x6#4) := by decide
theorem test_decode_ldVxDt : decode 0b1111_0001_0000_0111#16 = .instr (.ldVxDt 0x1#4) := by decide
theorem test_decode_ldVxK : decode 0b1111_0011_0000_1010#16 = .instr (.ldVxK 0x3#4) := by decide
theorem test_decode_ldDtVx : decode 0b1111_0101_0001_0101#16 = .instr (.ldDtVx 0x5#4) := by decide
theorem test_decode_ldStVx : decode 0b1111_0110_0001_1000#16 = .instr (.ldStVx 0x6#4) := by decide
theorem test_decode_addIVx : decode 0b1111_1110_0001_1110#16 = .instr (.addIVx 0xE#4) := by decide
theorem test_decode_ldFVx : decode 0b1111_0011_0010_1001#16 = .instr (.ldFVx 0x3#4) := by decide
theorem test_decode_ldBVx : decode 0b1111_0010_0011_0011#16 = .instr (.ldBVx 0x2#4) := by decide
theorem test_decode_ldMemVx : decode 0b1111_0100_0101_0101#16 = .instr (.ldMemVx 0x4#4) := by decide
theorem test_decode_ldVxMem : decode 0b1111_1101_0110_0101#16 = .instr (.ldVxMem 0xD#4) := by decide

/-- The illegal words of the decoder vectors. -/
theorem test_decode_illegal : (([0x5AB1, 0x9ABF, 0x8008, 0x800D, 0x800F, 0xE09F, 0xF000, 0xF01F, 0xF030] ++
    [0xEF00, 0xFFFF]).map fun w => decode (BitVec.ofNat 16 w)) = List.replicate 11 .illegal := by decide

/-- The first and the last word of family 0 that are `SYS`, and the word beside `CLS`. -/
theorem test_decode_sys_corners : [0x0000, 0x00E1, 0x0FFF].map (fun w => decode (BitVec.ofNat 16 w)) =
    [.instr (.sys 0x000#12), .instr (.sys 0x0E1#12), .instr (.sys 0xFFF#12)] := by decide

theorem test_decode_short : decodeBytes [0x12#8] = (.truncated, [0x12#8]) := by decide

theorem test_decodeTableWord : decodeTableWord 16 0x7368 = some (.addVxKk 0x3#4 0x68#8) := by decide

/-! ### The execution cycle (vectors V-F) -/

/-- V-F1: the word is big-endian, and the pc moves on before the jump. -/
theorem test_fetch_big_endian : after start 0x1234 (fun t => (t.mem, t.ibOp, t.ibPc, t.pc)) =
    some ([(0x200, 0x12#8), (0x201, 0x34#8)], 0x1234#16, 0x200#16, 0x234#16) := by decide

/-- V-F2, V-E6: an odd pc. -/
theorem test_fetch_odd : (next? (step { start with pc := 0x201#16 })).map (fun t => (faultOf t, t.pc, t.fetchCount)) =
    some (some ⟨6, 0x201#16, none, .nothing⟩, 0x201#16, 0) := by decide

/-- V-F3: a pc below 0x200. -/
theorem test_fetch_low : (next? (step { start with pc := 0x1FE#16 })).map faultOf =
    some (some ⟨6, 0x1FE#16, none, .nothing⟩) := by decide

/-- V-F4: the last word of memory, and the pc wraps. -/
theorem test_fetch_top : after { start with pc := 0xFFFE#16 } 0x6001 (fun t => (State.reg t 0#4, t.pc)) =
    some (0x01#8, 0x0000#16) := by decide

/-- V-F5: the fetch ticks before the instruction reads. -/
theorem test_tick_before_read : after { start with params := ⟨1, .fault⟩, dt := 5#8 } 0xF107
    (fun t => (t.dt, t.st, State.reg t 1#4)) = some (4#8, 0#8, 4#8) := by decide

/-- V-F6: the prescaler, before and at the cadence. -/
theorem test_prescaler : [1, 2].map (fun k =>
    after { start with params := ⟨3, .fault⟩, fetchCount := k, dt := 5#8 } 0x6000 (fun t => (t.fetchCount, t.dt))) =
    [some (2, 5#8), some (0, 4#8)] := by decide

/-- V-E1: an illegal word faults in the decode step. -/
theorem test_illegal_word : after start 0x8008 (fun t => (faultOf t, t.pc, t.runState)) =
    some (some ⟨1, 0x200#16, some 0x8008#16, .nothing⟩, 0x202#16, .faulted) := by decide

/-- FAULTED and HALTED take no step (R130). -/
theorem test_terminal : step { start with runState := .faulted } = .fault .stoppedFaulted ∧
    step { start with runState := .halted } = .fault .stoppedHalted := ⟨rfl, rfl⟩

/-! ### Control transfer (vectors V-C) -/

/-- V-C1. -/
theorem test_jp : after start 0x1208 (fun t => t.pc) = some 0x208#16 := by decide

/-- V-C2. -/
theorem test_call : after { start with pc := 0x300#16 } 0x2400 (fun t => (t.stack, t.pc)) = some ([0x302#16], 0x400#16) := by decide

/-- V-C5, V-C6, V-E2: 15 entries and 16. -/
theorem test_call_capacity : [15, 16].map (fun n => after (deep n) 0x2400 (fun t => (t.stack.length, t.pc, faultOf t))) =
    [some (16, 0x400#16, none), some (16, 0x202#16, some ⟨2, 0x200#16, some 0x2400#16, .nothing⟩)] := by decide

/-- V-C3. -/
theorem test_ret : after { start with pc := 0x400#16, stack := [0x302#16] } 0x00EE (fun t => (t.stack, t.pc)) =
    some ([], 0x302#16) := by decide

/-- V-C4, V-E3. -/
theorem test_ret_empty : after start 0x00EE (fun t => (t.pc, faultOf t)) =
    some (0x202#16, some ⟨3, 0x200#16, some 0x00EE#16, .nothing⟩) := by decide

/-- V-C7, V-C8. -/
theorem test_jpV0 : [(0x10#8, 0xB300), (0xFF#8, 0xBFFF)].map (fun c => after (regs [(0#4, c.1)]) c.2 (fun t => t.pc)) =
    [some 0x310#16, some 0x10FE#16] := by decide

/-- V-C11, V-C12. -/
theorem test_seVxKk : [0x68#8, 0x67#8].map (fun b => after (regs [(3#4, b)]) 0x3368 (fun t => t.pc)) =
    [some 0x204#16, some 0x202#16] := by decide

/-- V-C24, V-C25: the skip wraps. -/
theorem test_seVxKk_wraps : [0xFFFC#16, 0xFFFE#16].map (fun a => after { start with pc := a } 0x3000 (fun t => t.pc)) =
    [some 0x0000#16, some 0x0002#16] := by decide

/-- V-C13, V-C14. -/
theorem test_sneVxKk : [0x67#8, 0x68#8].map (fun b => after (regs [(3#4, b)]) 0x4368 (fun t => t.pc)) =
    [some 0x204#16, some 0x202#16] := by decide

/-- V-C15, and unequal registers. -/
theorem test_seVxVy : [7#8, 8#8].map (fun b => after (regs [(1#4, 7#8), (2#4, b)]) 0x5120 (fun t => t.pc)) =
    [some 0x204#16, some 0x202#16] := by decide

/-- V-C17, V-C18. -/
theorem test_sneVxVy : [0x9120, 0x9110].map (fun w => after (regs [(1#4, 7#8), (2#4, 8#8)]) w (fun t => t.pc)) =
    [some 0x204#16, some 0x202#16] := by decide

/-- V-C21, V-E7. -/
theorem test_sys_fault : after start 0x0123 (fun t => (faultOf t, t.pc)) =
    some (some ⟨7, 0x200#16, some 0x0123#16, .nothing⟩, 0x202#16) := by decide

/-- V-C22. -/
theorem test_sys_nop : after { start with params := ⟨2, .nop⟩ } 0x0123 (fun t => (faultOf t, t.pc, t.runState)) =
    some (none, 0x202#16, .fetch) := by decide

/-! ### Arithmetic and logic (vectors V-A) -/

/-- V-A1. -/
theorem test_ldVxKk : after start 0x6A42 (fun t => State.reg t 0xA#4) = some 0x42#8 := by decide

/-- V-A3, V-A4: no flag. -/
theorem test_addVxKk : [(0x10#8, 0x7368), (0xFF#8, 0x7301)].map (fun c => after (regs [(3#4, c.1), (0xF#4, 0x55#8)]) c.2
    (fun t => (State.reg t 3#4, State.reg t 0xF#4))) = [some (0x78#8, 0x55#8), some (0x00#8, 0x55#8)] := by decide

/-- V-A6. -/
theorem test_ldVxVy : after (regs [(2#4, 0x55#8)]) 0x8120 (fun t => State.reg t 1#4) = some 0x55#8 := by decide

/-- V-A7. -/
theorem test_orVxVy : after (regs [(1#4, 0x0F#8), (2#4, 0xF0#8), (0xF#4, 7#8)]) 0x8121
    (fun t => (State.reg t 1#4, State.reg t 0xF#4)) = some (0xFF#8, 7#8) := by decide

/-- V-A8. -/
theorem test_andVxVy : after (regs [(1#4, 0x3C#8), (2#4, 0x0F#8)]) 0x8122 (fun t => State.reg t 1#4) = some 0x0C#8 := by decide

/-- V-A9. -/
theorem test_xorVxVy : after (regs [(1#4, 0xFF#8), (2#4, 0x0F#8)]) 0x8123 (fun t => State.reg t 1#4) = some 0xF0#8 := by decide

/-- V-A11, V-A12, V-A13. -/
theorem test_addVxVy : [(0xF0#8, 0x20#8), (0xFF#8, 0x01#8), (0x80#8, 0x7F#8)].map (fun c => after (regs [(1#4, c.1), (2#4, c.2)]) 0x8124
    (fun t => (State.reg t 1#4, State.reg t 0xF#4))) =
    [some (0x10#8, 1#8), some (0x00#8, 1#8), some (0xFF#8, 0#8)] := by decide

/-- V-A26 and V-A14: VF as destination, VF as source. -/
theorem test_addVxVy_flag_last : [(0x8F14, 0xF0#8, 0x20#8), (0x81F4, 0xFF#8, 0x01#8)].map (fun c =>
    after (regs [(0xF#4, c.2.1), (1#4, c.2.2)]) c.1 (fun t => (State.reg t 1#4, State.reg t 0xF#4))) =
    [some (0x20#8, 1#8), some (0x00#8, 1#8)] := by decide

/-- V-A15, V-A16, V-A17. -/
theorem test_subVxVy : [(0x05#8, 0x03#8), (0x03#8, 0x03#8), (0x00#8, 0x01#8)].map (fun c => after (regs [(1#4, c.1), (2#4, c.2)]) 0x8125
    (fun t => (State.reg t 1#4, State.reg t 0xF#4))) =
    [some (0x02#8, 1#8), some (0x00#8, 0#8), some (0xFF#8, 0#8)] := by decide

/-- V-A18, V-A19, V-A20. -/
theorem test_subnVxVy : [(0x03#8, 0x05#8), (0x09#8, 0x09#8), (0x01#8, 0x00#8)].map (fun c => after (regs [(1#4, c.1), (2#4, c.2)]) 0x8127
    (fun t => (State.reg t 1#4, State.reg t 0xF#4))) =
    [some (0x02#8, 1#8), some (0x00#8, 0#8), some (0xFF#8, 0#8)] := by decide

/-- V-A27, V-A28. -/
theorem test_sub_flag_last : [(0x8F15, 0x05#8, 0x03#8), (0x8F17, 0x03#8, 0x05#8)].map (fun c =>
    after (regs [(0xF#4, c.2.1), (1#4, c.2.2)]) c.1 (fun t => State.reg t 0xF#4)) = [some 1#8, some 1#8] := by decide

/-- V-A23, V-A22. -/
theorem test_shrVx : [0x05#8, 0x80#8].map (fun b => after (regs [(5#4, b), (1#4, 0xAA#8)]) 0x8516
    (fun t => (State.reg t 5#4, State.reg t 0xF#4, State.reg t 1#4))) =
    [some (0x02#8, 1#8, 0xAA#8), some (0x40#8, 0#8, 0xAA#8)] := by decide

/-- V-A24, V-A25. -/
theorem test_shlVx : [0x81#8, 0x7F#8].map (fun b => after (regs [(4#4, b)]) 0x840E
    (fun t => (State.reg t 4#4, State.reg t 0xF#4))) = [some (0x02#8, 1#8), some (0xFE#8, 0#8)] := by decide

/-- V-A29, V-A30. -/
theorem test_shift_flag_last : [(0x8F06, 0x03#8), (0x8F0E, 0x81#8)].map (fun c =>
    after (regs [(0xF#4, c.2)]) c.1 (fun t => State.reg t 0xF#4)) = [some 1#8, some 1#8] := by decide

/-- V-A31, on a drawn byte of 0xA7. -/
theorem test_rnd_byte : (State.reg (randomByte 3#4 0x0F#8 0xA7#8 start) 3#4, (randomByte 3#4 0x0F#8 0xA7#8 start).draws) =
    (0x07#8, 1) := by decide

/-- V-A32: a mask of 0 leaves 0 whatever was drawn. -/
theorem test_rnd_zero_mask : ∃ t, exec (.rndVxKk 3#4 0x00#8) (regs [(3#4, 0x55#8)]) = .next t ∧ State.reg t 3#4 = 0x00#8 :=
  ⟨_, rfl, by
    rw [State.reg_toFetch]
    exact (State.reg_setReg_same _ _ _).trans (BitVec.and_zero)⟩

/-! ### Display (vectors V-D) -/

/-- V-D1. -/
theorem test_cls : after { regs [(0xF#4, 9#8)] with screen := Vector.replicate 32 (BitVec.allOnes 64) } 0x00E0
    (fun t => (t.screen, State.reg t 0xF#4, t.effect)) =
    some (Vector.replicate 32 0#64, 9#8, .needsScreenRedraw) := by decide

/-- V-D2: glyph 0 of the default font. -/
theorem test_drw_glyph : after start 0xD015 (fun t => ([0, 1, 2, 3, 4, 5].map (row t), State.reg t 0xF#4)) =
    some ([[0, 1, 2, 3], [0, 3], [0, 3], [0, 3], [0, 1, 2, 3], []], 0#8) := by decide

/-- V-D5: wrap on both axes. -/
theorem test_drw_wraps : after { regs [(0#4, 62#8), (1#4, 31#8)] with i := 0x019#16 } 0xD012
    (fun t => (row t 31, row t 0, row t 1, State.reg t 0xF#4)) = some ([0, 1, 62, 63], [62], [], 0#8) := by decide

/-- V-D3: pixels that were on are turned off and VF is 1. -/
theorem test_drw_collides : after { start with screen := (Vector.replicate 32 0#64).set 0 0xF#64 } 0xD011
    (fun t => (t.screen, State.reg t 0xF#4)) = some (Vector.replicate 32 0#64, 1#8) := by decide

/-- V-D8, V-E4 and V-D7: one byte beyond the end, and just inside. -/
theorem test_drw_bounds : [0xFFFF#16, 0xFFFE#16].map (fun a => after { regs [(0xF#4, 9#8)] with i := a } 0xD012
    (fun t => (faultOf t, State.reg t 0xF#4))) =
    [some (some ⟨4, 0x200#16, some 0xD012#16, .access 0xFFFF#16 2⟩, 9#8), some (none, 0#8)] := by decide

/-- V-D9: VF gives the column before it takes the flag. -/
theorem test_drw_vf_column : after { regs [(2#4, 5#8), (0xF#4, 7#8)] with i := 0x300#16, mem := [(0x300, 0x80#8)] } 0xDF21
    (fun t => (row t 5, State.reg t 0xF#4)) = some ([7], 0#8) := by decide

/-! ### Keypad (vectors V-K) -/

/-- V-K1, V-K2. -/
theorem test_skpVx : [keyA, Vector.replicate 16 false].map (fun b => after { regs [(2#4, 0x0A#8)] with keys := b } 0xE29E
    (fun t => t.pc)) = [some 0x204#16, some 0x202#16] := by decide

/-- V-K3, V-K4. -/
theorem test_sknpVx : [Vector.replicate 16 false, keyA].map (fun b => after { regs [(2#4, 0x0A#8)] with keys := b } 0xE2A1
    (fun t => t.pc)) = [some 0x204#16, some 0x202#16] := by decide

/-- V-K5, V-E5. -/
theorem test_skpVx_index : after (regs [(2#4, 0x10#8)]) 0xE29E (fun t => (faultOf t, t.pc)) =
    some (some ⟨5, 0x200#16, some 0xE29E#16, .key 0x10#8⟩, 0x202#16) := by decide

/-- V-K6. -/
theorem test_sknpVx_index : after (regs [(2#4, 0xFF#8)]) 0xE2A1 faultOf = some (some ⟨5, 0x200#16, some 0xE2A1#16, .key 0xFF#8⟩) := by decide

/-- R244: the front end updates the key flags before the skip executes. -/
theorem test_skpVx_host_turn : after { regs [(2#4, 0x0A#8)] with hostQueue := [.updateKeys keyA, .cancelWait] } 0xE29E
    (fun t => (t.pc, t.hostQueue)) = some (0x204#16, [.cancelWait]) := by decide

/-- V-K7. -/
theorem test_ldVxK_waits : after start 0xF30A (fun t => (t.runState, t.effect, t.pc)) = some (.waitKey, .blocksOnKey, 0x202#16) := by decide

/-- The state of V-K7, with V[3] = 0x44 as V-K9 has it. -/
def waiting (queue : List HostAction) : State :=
  { regs [(3#4, 0x44#8)] with
    runState := .waitKey, ibPc := 0x200#16, ibOp := 0xF30A#16, ibInstr := some (.ldVxK 3#4), effect := .blocksOnKey,
    pc := 0x202#16, hostQueue := queue }

/-- V-K8, V-K9: the queued answer, the queued cancel. -/
theorem test_ldVxK_answered : [.resolveKey 7#4, .cancelWait].map (fun a => (next? (step (waiting [a]))).map
    (fun t => (State.reg t 3#4, t.pressedKey, t.runState, t.faultRecord))) =
    [some (0x07#8, 7#5, .fetch, none), some (0x44#8, 16#5, .halted, none)] := by decide

/-! ### Index register and memory (vectors V-M) -/

/-- V-M1. -/
theorem test_ldINnn : after start 0xAFFF (fun t => t.i) = some 0x0FFF#16 := by decide

/-- V-M2, V-M3. -/
theorem test_addIVx : [(0x0FFF#16, 0xFF#8), (0xFFFF#16, 0x01#8)].map (fun c => after { regs [(0xE#4, c.2)] with i := c.1 } 0xFE1E
    (fun t => (t.i, State.reg t 0xF#4))) = [some (0x10FE#16, 0#8), some (0x0000#16, 0#8)] := by decide

/-- V-M4, V-M5, V-M6. -/
theorem test_ldFVx : [0x05#8, 0x10#8, 0xFF#8].map (fun b => after (regs [(2#4, b)]) 0xF229 (fun t => t.i)) =
    [some 0x0019#16, some 0x0050#16, some 0x04FB#16] := by decide

/-- V-M7, V-M9. -/
theorem test_ldBVx : [(254#8, 0x300#16), (255#8, 0xFFFD#16)].map (fun c => after { regs [(0#4, c.1)] with i := c.2 } 0xF033
    (fun t => (bytes t c.2.toNat 3, t.i))) = [some ([2, 5, 4], 0x300#16), some ([2, 5, 5], 0xFFFD#16)] := by decide

/-- V-M10. -/
theorem test_ldBVx_bounds : after { start with i := 0xFFFE#16 } 0xF033 (fun t => (faultOf t, bytes t 0xFFFE 2)) =
    some (some ⟨4, 0x200#16, some 0xF033#16, .access 0xFFFE#16 3⟩, [0, 0]) := by decide

/-- V-M11, V-M15: the range is the index, not the value. -/
theorem test_ldMemVx : after { regs [(0#4, 1#8), (1#4, 2#8), (2#4, 3#8)] with i := 0x305#16 } 0xF155
    (fun t => (bytes t 0x305 3, t.i)) = some ([1, 2, 0], 0x305#16) := by decide

/-- V-M12, V-M13. -/
theorem test_ldMemVx_bounds : [0xFFF0#16, 0xFFF1#16].map (fun a => after { regs [(0xF#4, 9#8)] with i := a } 0xFF55
    (fun t => (faultOf t, bytes t 0xFFFF 1))) =
    [some (none, [9]), some (some ⟨4, 0x200#16, some 0xFF55#16, .access 0xFFF1#16 16⟩, [0])] := by decide

/-- V-M14. -/
theorem test_ldVxMem : after { regs [(3#4, 0x77#8)] with i := 0x300#16, mem := [(0x300, 2#8), (0x301, 5#8), (0x302, 4#8)] } 0xF265
    (fun t => (State.reg t 0#4, State.reg t 1#4, State.reg t 2#4, State.reg t 3#4, t.i)) =
    some (2#8, 5#8, 4#8, 0x77#8, 0x300#16) := by decide

/-- R231: the block load just inside and one byte beyond the end. -/
theorem test_ldVxMem_bounds : [0xFFFE#16, 0xFFFF#16].map (fun a => after { start with i := a } 0xF165 (fun t => faultOf t)) =
    [some none, some (some ⟨4, 0x200#16, some 0xF165#16, .access 0xFFFF#16 2⟩)] := by decide

/-- V-M16: the word at 0x200 becomes 0x1255. -/
theorem test_store_over_code : after { regs [(0#4, 0x12#8)] with i := 0x200#16 } 0xF055 (fun t => fetchWord t.mem 0x200#16) = some 0x1255#16 := by decide

/-! ### Timers (vectors V-T) -/

/-- V-T1. -/
theorem test_ldDtVx : after (regs [(5#4, 0x3C#8)]) 0xF515 (fun t => (t.dt, t.fetchCount)) = some (0x3C#8, 1) := by decide

/-- V-T2, V-T3. -/
theorem test_ldVxDt : [1, 2].map (fun n => after { start with params := ⟨n, .fault⟩, dt := 0x3C#8 } 0xF507
    (fun t => (t.fetchCount, State.reg t 5#4))) = [some (0, 0x3B#8), some (1, 0x3C#8)] := by decide

/-- V-T5. -/
theorem test_ldStVx : after (regs [(5#4, 2#8)]) 0xF518 (fun t => (t.st, t.effect, State.soundOn t)) =
    some (2#8, .affectsSound, true) := by decide

/-- V-T4, V-T6. -/
theorem test_timers_saturate : [0#8, 1#8].map (fun b => after { start with params := ⟨1, .fault⟩, st := b } 0x6000
    (fun t => (t.dt, t.st, State.soundOn t))) = [some (0#8, 0#8, false), some (0#8, 0#8, false)] := by decide

/-! ### Reset (R255 to R258) -/

/-- The launch parameters `State.reset` stands for. -/
def defaults : LaunchParams where
  v := Vector.replicate 16 0x00#8
  i := 0x0000#16
  dt := 0x00#8
  st := 0x00#8
  screen := Vector.replicate 32 0#64
  keys := Vector.replicate 16 false
  mem := []
  font := ⟨defaultFont.toArray, rfl⟩
  params := State.reset.params

/-- `State.reset` is what `Reset` of no ROM gives with those parameters. -/
theorem test_reset_is_resetWith : State.resetWith State.reset defaults [] = some State.reset := by rfl

/-- A ROM is loaded from 0x200 on, and its first word is the first fetched. -/
theorem test_reset_rom : (State.resetWith start defaults [0x12#8, 0x34#8]).map (fun t => (t.pc, fetchWord t.mem t.pc)) =
    some (0x200#16, 0x1234#16) := by decide

/-- Memory of zeros is a program of `SYS` (V-C23). -/
theorem test_reset_first_step : (next? (step State.reset)).map faultOf = some (some ⟨7, 0x200#16, some 0x0000#16, .nothing⟩) := by decide

/-! ### Assembler (vectors L1) -/

/-- L1-1, L1-2, L1-4, L1-7 and the canonical texts of section 2. -/
theorem test_asm_text : [Instr.addVxKk 3#4 0x68#8, .jpV0Nnn 0x123#12, .shrVx 5#4 0#4, .ldVxKk 2#4 0x02#8, .ldINnn 0x023#12, .drw 1#4 2#4 5#4,
      .ldMemVx 4#4].map instrText =
    ["ADD V3, 0x68", "JP V0, 0x123", "SHR V5", "LD V2, 0x02", "LD I, 0x023", "DRW V1, V2, 0x5",
      "LD [I], V4"].map String.toList := by decide

/-- L1-3, L1-5. -/
theorem test_asm_word : (assemble ".word 0x1234".toList, wordText 0x0234#16) = (.binary [0x1234#16], ".word 0x0234".toList) := by decide

/-- L1-4: y is 0. -/
theorem test_asm_shr : assemble "shr v5".toList = .binary [0x8506#16] := by decide

/-- L1-6. -/
theorem test_asm_extended : assemble "LD I, 0x1999".toList =
    .binary ([0xAFFF#16, 0x6EFF#16] ++ List.replicate 9 0xFE1E#16 ++ [0x6EA3#16, 0xFE1E#16]) := by decide

/-- L1-8. -/
theorem test_asm_forward : assemble "JP start\nCLS\nstart:\nJP start".toList = .binary [0x1204#16, 0x00E0#16, 0x1204#16] := by decide

/-- L1-9. -/
theorem test_asm_labels : assemble "lbl:\nSYS lbl\nJP lbl\nCALL lbl\nLD I, lbl".toList =
    .binary [0x0200#16, 0x1200#16, 0x2200#16, 0xA200#16] := by decide

/-- L1-15. -/
theorem test_asm_errors : (assemble "JP nowhere".toList, assemble "a:\na:".toList) =
    (.errors [⟨1, .unresolvedSymbol "nowhere".toList⟩], .errors [⟨2, .repeatedLabel ['a']⟩]) := by decide

/-! ### Witnesses: states and operands that meet the hypotheses of the obligations, clause by clause -/

theorem test_witness_DecodeOfEncode :
    (Instr.sys 0xFFF#12).wellFormed = true ∧ (Instr.drw 0xF#4 0xF#4 0xF#4).wellFormed = true := by decide

theorem test_witness_EncodeOfDecode :
    decode 0xDFFF#16 = .instr (.drw 0xF#4 0xF#4 0xF#4) ∧ decode (waiting []).ibOp = .instr (.ldVxK 3#4) := by decide

/-- One word at the edge of each clause. -/
theorem test_witness_IllegalWordsExactly :
    [0x5001#16, 0x9FFF#16, 0x8008#16, 0xEFA2#16, 0xFF66#16].map decode = List.replicate 5 .illegal := by decide

theorem test_witness_OpcodeMapAgrees :
    decode 0x8AB6#16 = .instr (.shrVx 0xA#4 0xB#4) ∧
    0x8AB6#16 &&& (Instr.shrVx 0#4 0#4).mask = (Instr.shrVx 0#4 0#4).pattern ∧
    0x00E0#16 &&& (Instr.sys 0#12).mask = (Instr.sys 0#12).pattern := by decide

/-- The lowest and the highest address of a fetch (FetchBuffersWord). -/
theorem test_witness_FetchBuffersWord :
    fetchable { start with pc := 0x200#16 }.pc = true ∧ fetchable { start with pc := 0xFFFE#16 }.pc = true := by decide

/-- The last fetch before the cadence and the one that reaches it. -/
theorem test_witness_FetchTicksTimers : fetchable start.pc = true ∧
    start.fetchCount + 1 ≠ start.params.fetchesPerTimerDecrement ∧
    { start with fetchCount := 1 }.fetchCount + 1 = start.params.fetchesPerTimerDecrement := by decide

theorem test_witness_BadFetchFaults : start.runState = .fetch ∧ (0x201#16).toNat % 2 = 1 ∧ (0x1FE#16).toNat < 0x200 ∧
    0xFFFE < (0xFFFF#16).toNat := by decide

/-- A machine about to fetch the word `w`. -/
def placed (w : Nat) : State := start.withFetchWord 16 w

theorem test_witness_IllegalWordFaults :
    ({ start with runState := .decode, ibOp := 0x8008#16 }.runState = .decode ∧ decode 0x8008#16 = .illegal) ∧
    (placed 0x8008).runState = .fetch ∧ fetchable (placed 0x8008).pc = true ∧
    decode (fetchWord (placed 0x8008).mem (placed 0x8008).pc) = .illegal := by decide

/-- One word of each class (DecodeSetsEffectClass). -/
theorem test_witness_DecodeSetsEffectClass :
    [0x00E0#16, 0xD125#16, 0xE29E#16, 0xE2A1#16, 0xF30A#16, 0xF518#16, 0x1208#16].map
      (fun w => (decodeStep { start with ibOp := w }).effect) =
    [.needsScreenRedraw, .needsScreenRedraw, .needsKeyState, .needsKeyState, .blocksOnKey, .affectsSound, .noEffect] := by
  decide

theorem test_witness_StepRunsDecodedInstruction :
    ((placed 0x7368).runState = .fetch ∧ fetchable (placed 0x7368).pc = true ∧
      decode (fetchWord (placed 0x7368).mem (placed 0x7368).pc) = .instr (.addVxKk 3#4 0x68#8) ∧
      (Instr.addVxKk 3#4 0x68#8).sideEffect ≠ .blocksOnKey) ∧
    decode (fetchWord (placed 0xF30A).mem (placed 0xF30A).pc) = .instr (.ldVxK 3#4) ∧
    (waiting []).runState = .waitKey ∧ (waiting []).ibInstr = some (.ldVxK 3#4) := by decide

theorem test_witness_StepRunsPlacedWord : Memory.wf start.mem = true ∧ decode 0xE29E#16 = .instr (.skpVx 2#4) ∧
    (Instr.skpVx 2#4).sideEffect ≠ .blocksOnKey := by decide

theorem test_witness_TerminalStatesStay : { start with runState := .faulted }.runState = .faulted ∧
    { start with runState := .halted }.runState = .halted := by decide

theorem test_witness_StepIsTransitions : ∃ t, step (placed 0x7368) = .next t := ⟨_, rfl⟩

theorem test_witness_SysFaultsOrDoesNothing : start.params.sysBehaviour = .fault ∧
    { start with params := ⟨2, .nop⟩ }.params.sysBehaviour = .nop := by decide

theorem test_witness_CallPushesAndJumps : (deep 15).stack.length < 16 ∧ (deep 16).stack.length = 16 := by decide

theorem test_witness_RetPopsIntoPc : (deep 1).stack = 0x0300#16 :: [] ∧ start.stack = [] := by decide

theorem test_witness_RetUndoesCall : ∃ t u, exec (.call 0x400#12) start = .next t ∧ t.runState = .fetch ∧
    State.stack u = t.stack := ⟨_, _, rfl, rfl, rfl⟩

/-- The side conditions inside the arithmetic statements: a destination that is not VF, and the highest bit. -/
theorem test_witness_arithmetic : (0xE#4 ≠ 0xF#4) ∧ 7 < 8 := by decide

/-- A sprite that ends at the last byte of memory; the two cases of the collision. -/
theorem test_witness_DrawFlipsSpritePixels :
    { start with i := 0xFFFF#16 }.i.toNat + (1#4).toNat ≤ 65536 ∧
    (∃ py px, pixel (Vector.replicate 32 (BitVec.allOnes 64)) py px = true ∧ SpriteOn start 0#4 1#4 5#4 py px) ∧
    ¬ ∃ py px, pixel start.screen py px = true ∧ SpriteOn start 0#4 1#4 5#4 py px := by
  refine ⟨by decide, ⟨0, 0, by decide, 0, 0, by decide, by decide, by decide, by decide, by decide⟩, ?_⟩
  rintro ⟨py, px, h, -⟩
  by_cases hy : py < 32 <;> simp [pixel, start, State.reset, hy] at h

theorem test_witness_DrawTwiceRestoresScreen : ∃ t u, (0#4 ≠ 0xF#4) ∧ (1#4 ≠ 0xF#4) ∧
    start.i.toNat + (5#4).toNat ≤ 65536 ∧ exec (.drw 0#4 1#4 5#4) start = .next t ∧
    exec (.drw 0#4 1#4 5#4) t = .next u := ⟨_, _, by decide, by decide, by decide, rfl, rfl⟩

theorem test_witness_ClearThenDrawShowsSprite : ∃ t, start.i.toNat + (0xF#4).toNat ≤ 65536 ∧
    exec .cls start = .next t := ⟨_, by decide, rfl⟩

/-- The highest key index and the first that is none. -/
theorem test_witness_KeySkips : (State.reg (regs [(2#4, 0x0F#8)]) 2#4).toNat < 16 ∧
    16 ≤ (State.reg (regs [(2#4, 0x10#8)]) 2#4).toNat := by decide

/-- A skip about to execute. -/
def testing (queue : List HostAction) : State :=
  { start with runState := .execute, ibInstr := some (.skpVx 2#4), effect := .needsKeyState, hostQueue := queue }

theorem test_witness_KeyFlagsRefreshedBeforeSkip : (testing []).runState = .execute ∧
    (testing []).ibInstr = some (.skpVx 2#4) ∧ (testing []).effect = .needsKeyState ∧
    (testing [.updateKeys keyA]).hostQueue = .updateKeys keyA :: [] ∧
    (∀ b rest, (testing [.cancelWait]).hostQueue ≠ .updateKeys b :: rest) :=
  ⟨by decide, by decide, by decide, by decide, fun _ _ h => nomatch h⟩

theorem test_witness_HostActionsBetweenSteps : (waiting []).runState ≠ .faulted ∧ (waiting []).runState ≠ .halted ∧
    start.runState ≠ .waitKey := by decide

theorem test_witness_KeyWaitIsLeftByFrontEnd : (waiting []).runState = .waitKey ∧
    (waiting []).ibInstr = some (.ldVxK 3#4) ∧ (waiting []).hostQueue = [] := by decide

theorem test_witness_KeyWaitTakesQueuedAnswer :
    (waiting [.resolveKey 0xF#4]).hostQueue = .resolveKey 0xF#4 :: [] ∧
    (waiting [.cancelWait]).hostQueue = .cancelWait :: [] ∧
    (waiting [.updateKeys keyA]).hostQueue = .updateKeys keyA :: [] ∧ (waiting []).hostQueue = [] := by decide

/-- The last base in bounds and the first out of bounds. -/
theorem test_witness_DecimalDigitsStored : Memory.wf start.mem = true ∧
    { start with i := 0xFFFD#16 }.i.toNat + 3 ≤ 65536 ∧ 65536 < { start with i := 0xFFFE#16 }.i.toNat + 3 := by decide

/-- As above, for the block of 16 registers (RegisterBlockStored and RegisterBlockLoaded). -/
theorem test_witness_RegisterBlocks : Memory.wf start.mem = true ∧
    { start with i := 0xFFF0#16 }.i.toNat + (0xF#4).toNat + 1 ≤ 65536 ∧
    65536 < { start with i := 0xFFF1#16 }.i.toNat + (0xF#4).toNat + 1 := by decide

theorem test_witness_OutOfBoundsAccessFaults : 65536 < { start with i := 0xFFFF#16 }.i.toNat + (2#4).toNat ∧
    65536 < { start with i := 0xFFFE#16 }.i.toNat + 3 ∧
    65536 < { start with i := 0xFFFF#16 }.i.toNat + ((1#4).toNat + 1) := by decide

/-- Two bytes stored over the next word. -/
def patching : State := { start with i := 0x200#16 }

theorem test_witness_StoreSeenByNextFetch : ∃ t, Memory.wf patching.mem = true ∧ fetchable patching.pc = true ∧
    patching.i.toNat + (1#4).toNat + 1 ≤ 65536 ∧ exec (.ldMemVx 1#4) patching = .next t ∧
    patching.pc.toNat = patching.i.toNat + (0#4).toNat ∧ (1#4).toNat = (0#4).toNat + 1 ∧ (1#4).toNat ≤ (1#4).toNat :=
  ⟨_, by decide, by decide, by decide, rfl, by decide, by decide, by decide⟩

theorem test_witness_RegisterWritersListed : ∃ t, exec (.addVxVy 1#4 2#4) start = .next t ∧
    writesReg (.addVxVy 1#4 2#4) 2#4 = false := ⟨_, rfl, by decide⟩

/-- An instruction outside every list of writers (StorageWriters, SpecialRegisterWriters, ControlStateUntouched). -/
theorem test_witness_writers : ∃ t, exec (.jp 0x300#12) start = .next t ∧ t.runState ≠ .faulted :=
  ⟨_, rfl, by decide⟩

theorem test_witness_FaultsArePrecise :
    (∃ t, exec .ret { start with ibPc := 0x1FE#16 } = .next t ∧ t.runState = .faulted ∧
      { start with ibPc := 0x1FE#16 }.pc = { start with ibPc := 0x1FE#16 }.ibPc + 2#16) ∧
    (decodeStep { start with ibOp := 0x8008#16 }).runState = .faulted ∧
    (fetchStep { start with pc := 0x201#16 }).runState = .faulted :=
  ⟨⟨_, rfl, rfl, by decide⟩, by decide, by decide⟩

/-- A state of the invariant in FETCH, from which the machine steps (RunningMachineSteps, StepKeepsInvariant,
HostActionKeepsInvariant, StepKeepsParameters). -/
theorem test_witness_invariant_fetch : State.Inv start ∧ start.runState ≠ .faulted ∧ start.runState ≠ .halted ∧
    ∃ t, step start = .next t :=
  ⟨⟨by decide, by decide, by decide, by decide, by decide, by decide, fun h => absurd h (by decide)⟩,
    by decide, by decide, _, rfl⟩

/-- A state of the invariant in WAIT_KEY. -/
theorem test_witness_invariant_waiting : State.Inv (waiting [.resolveKey 7#4]) ∧
    ∃ t, step (waiting [.resolveKey 7#4]) = .next t :=
  ⟨⟨by decide, by decide, by decide, by decide, by decide, by decide,
    fun _ => ⟨.ldVxK 3#4, rfl, by decide, rfl, by decide⟩⟩, _, rfl⟩

/-- The longest ROM that fits and the first that does not; a byte of the ROM, the last of the font, bytes between. -/
theorem test_witness_ResetLoadsRomAndFont : (List.replicate 0xFE00 0x12#8).length ≤ 0xFE00 ∧
    0xFE00 < (List.replicate 0xFE01 0x12#8).length ∧ 0 < [0x12#8].length ∧ (5 * 15 + 4 < 80 ∧ 4 < 5) ∧
    (80 < (List.replicate 81 0x01#8).length ∧ 80 < 65536 ∧ 80 ≤ 80 ∧ 80 < 0x200) ∧
    1 ≤ start.params.fetchesPerTimerDecrement := by
  refine ⟨?_, ?_, by decide, by decide, by decide, by decide⟩ <;> rw [List.length_replicate]
  decide

theorem test_witness_CanonicalTextAssemblesBack : (∀ x y, Instr.sys 0x0E0#12 ≠ .shrVx x y) ∧
    ∀ x y, Instr.sys 0x0E0#12 ≠ .shlVx x y := ⟨by decide, by decide⟩

/-- The text of `SHR` and `SHL` with a `y` that does not show assembles to `y = 0` (L1-4 for `SHR`; R118). -/
theorem test_asm_shifts_hide_y : assembleLine (instrText (.shrVx 5#4 0xB#4)) = .ok [.instr (.shrVx 5#4 0#4)] ∧
    assembleLine (instrText (.shlVx 4#4 0xF#4)) = .ok [.instr (.shlVx 4#4 0#4)] := ⟨rfl, rfl⟩

/-- A bad line records one error, in the order of the lines; a source with an error gives no word (R117). -/
theorem test_asm_accumulates : assemble "LD Q, 0x1FF\nJP\nCLS".toList =
    .errors [⟨1, .malformedOperand⟩, ⟨2, .wrongOperandCount⟩] := by decide

/-- The lowest and the highest address of the extended form. -/
theorem test_witness_ExtendedLoadReachesAddress : (0xFFF < 0x1000 ∧ 0x1000 ≤ 0xFFFF) ∧ 0xFFF < 0xFFFF ∧
    0xFFFF ≤ 0xFFFF := by decide

end Sys2Proof.Tests
end

section
/-! PROOFS. Memory (`20_memory.md`): the word a fetch buffers. -/

namespace Sys2Proof.Machine

/-- A fetched word is big-endian: the byte at `pc` is bits 15 to 8 (R52). -/
theorem toNat_fetchWord (m : Memory) (pc : Word) :
    (fetchWord m pc).toNat = (Memory.read m pc.toNat).toNat * 256 + (Memory.read m (pc.toNat + 1)).toNat :=
  toNat_concat ..

/-- A fetch at a good `pc` writes only the buffered word, its address, `pc`, the prescaler and the two timers (R122,
R125). -/
theorem fetchStep_frame (s : State) (h : fetchable s.pc = true) :
    Unchanged s (fetchStep s) fun p =>
      p = .ibOp ∨ p = .ibPc ∨ p = .pc ∨ p = .fetchCount ∨ p = .delayTimer ∨ p = .soundTimer := by
  intro p hp
  rw [fetchStep_ok s h]
  cases p with
  | ibOp | ibPc | pc | fetchCount | delayTimer | soundTimer => simp at hp
  | reg | index | stack | pixel | keys | pressedKey | byte | ibInstr | effect | faultRecord | params | hostQueue
  | draws => rfl

/-- Settles O6: the fields are those of the timer tick of the fetched state, the rest is the frame of the fetch. -/
theorem fetchBuffersWord : Obligations.FetchBuffersWord := by
  unfold Obligations.FetchBuffersWord
  intro s h
  refine ⟨?word, ?address, ?next, ?runState, fetchStep_frame s h⟩ <;> rw [fetchStep_ok s h]
  case word => exact toNat_fetchWord s.mem s.pc
  case address => exact State.timerTick_ibPc _
  case next => exact BitVec.toNat_add s.pc 2#16
  case runState => exact State.timerTick_runState _

end Sys2Proof.Machine
end

section
/-! PROOFS. The execution cycle (`40_execution_cycle.md`): the terminal states. -/

namespace Sys2Proof.Machine

theorem step_of_faulted {s : State} (h : s.runState = .faulted) : step s = .fault .stoppedFaulted := by
  simp only [step, cycle, h]

theorem step_of_halted {s : State} (h : s.runState = .halted) : step s = .fault .stoppedHalted := by
  simp only [step, cycle, h]

theorem State.acceptsHost_eq_false_iff (s : State) :
    State.acceptsHost s = false ↔ s.runState = .faulted ∨ s.runState = .halted := by
  simp only [State.acceptsHost, Bool.and_eq_false_iff, decide_eq_false_iff_not, not_not]

/-- A front-end action on a block that accepts none changes nothing (R130, R243). -/
theorem State.hostAct_of_not_acceptsHost {s : State} (h : State.acceptsHost s = false) (a : HostAction) :
    State.hostAct s a = s :=
  if_neg (Bool.eq_false_iff.mp h)

/-- Settles O13: a step in either terminal state stops with its fault, and neither state accepts a front-end action. -/
theorem terminalStatesStay : Obligations.TerminalStatesStay := by
  unfold Obligations.TerminalStatesStay
  intro s hterminal
  have hstop : ∃ f, step s = .fault f := by
    rcases hterminal with hfaulted | hhalted
    · exact ⟨_, step_of_faulted hfaulted⟩
    · exact ⟨_, step_of_halted hhalted⟩
  obtain ⟨f, hf⟩ := hstop
  refine ⟨fun t => ?_, State.hostAct_of_not_acceptsHost ((State.acceptsHost_eq_false_iff s).mpr hterminal)⟩
  rw [hf]
  nofun

end Sys2Proof.Machine
end

section
/-! PROOFS. Frames: each named update keeps a frame that lets it write the part it sets. -/

namespace Sys2Proof.Machine

variable {s t : State} {w : Part → Prop}

theorem Unchanged.refl (s : State) (w : Part → Prop) : Unchanged s s w := by
  intro p _
  cases p <;> rfl

/-- `run_state` is no part of the state a frame speaks of, so ending a step keeps every frame (R127). -/
theorem Unchanged.toFetch (h : Unchanged s t w) : Unchanged s (State.toFetch t) w := by
  intro p hp
  have hsame := h p hp
  cases p <;> exact hsame

theorem Unchanged.setPc (h : Unchanged s t w) (hpc : w .pc) {a : Word} : Unchanged s (State.setPc t a) w := by
  intro p hp
  have hsame := h p hp
  cases p with
  | pc => exact absurd hpc hp
  | reg | index | stack | delayTimer | soundTimer | pixel | keys | pressedKey | byte | ibPc | ibOp | ibInstr | effect
  | faultRecord | fetchCount | params | hostQueue | draws => exact hsame

theorem Unchanged.setStack (h : Unchanged s t w) (hstack : w .stack) {entries : List Word} :
    Unchanged s { t with stack := entries } w := by
  intro p hp
  have hsame := h p hp
  cases p with
  | stack => exact absurd hstack hp
  | reg | index | pc | delayTimer | soundTimer | pixel | keys | pressedKey | byte | ibPc | ibOp | ibInstr | effect
  | faultRecord | fetchCount | params | hostQueue | draws => exact hsame

end Sys2Proof.Machine
end

section
/-! PROOFS. Control transfer (`41_control_flow.md`): `SYS`, the jumps, `CALL` and `RET`. -/

namespace Sys2Proof.Machine

/-! ### Addresses as `pc` takes them -/

@[simp] theorem toNat_zextAddr (nnn : Addr) : (zextAddr nnn).toNat = nnn.toNat :=
  BitVec.toNat_setWidth_of_le (by decide)

@[simp] theorem toNat_zextByte (b : Byte) : (zextByte b).toNat = b.toNat :=
  BitVec.toNat_setWidth_of_le (by decide)

/-- The sum of an address and a byte is at most 0x10FE, so it does not wrap (R144). -/
theorem toNat_zextAddr_add_zextByte (nnn : Addr) (b : Byte) :
    (zextAddr nnn + zextByte b).toNat = nnn.toNat + b.toNat := by
  have hnnn := nnn.isLt
  have hb := b.isLt
  rw [BitVec.toNat_add, toNat_zextAddr, toNat_zextByte]
  omega

/-! ### What each form answers -/

theorem faults_eq_next (s : State) (kind : FaultKind) (info : FaultInfo) :
    faults s kind info = .next (Faulted s kind info) := rfl

theorem exec_sys_of_fault {s : State} (h : s.params.sysBehaviour = .fault) (nnn : Addr) :
    exec (.sys nnn) s = .next (Faulted s .sysUnmodelled .nothing) := by
  simp only [exec, execSys, h, faults_eq_next]

theorem exec_sys_of_nop {s : State} (h : s.params.sysBehaviour = .nop) (nnn : Addr) :
    exec (.sys nnn) s = .next (State.toFetch s) := by
  simp only [exec, execSys, h, completes]

theorem exec_jp (nnn : Addr) (s : State) :
    exec (.jp nnn) s = .next (State.toFetch (State.setPc s (zextAddr nnn))) := rfl

theorem exec_jpV0Nnn (nnn : Addr) (s : State) :
    exec (.jpV0Nnn nnn) s =
      .next (State.toFetch (State.setPc s (zextAddr nnn + zextByte (State.reg s 0x0#4)))) := rfl

theorem exec_call_of_room {s : State} (h : s.stack.length < 16) (nnn : Addr) :
    exec (.call nnn) s =
      .next (State.toFetch { State.setPc s (zextAddr nnn) with stack := s.pc :: s.stack }) :=
  if_neg (Nat.not_le.mpr h)

theorem exec_call_of_full {s : State} (h : 16 ≤ s.stack.length) (nnn : Addr) :
    exec (.call nnn) s = .next (Faulted s .stackOverflow .nothing) :=
  if_pos h

theorem exec_ret_of_cons {s : State} {a : Word} {rest : List Word} (h : s.stack = a :: rest) :
    exec .ret s = .next (State.toFetch { State.setPc s a with stack := rest }) := by
  simp only [exec, execRet, h, completes]

theorem exec_ret_of_nil {s : State} (h : s.stack = []) :
    exec .ret s = .next (Faulted s .stackUnderflow .nothing) := by
  simp only [exec, execRet, h, faults_eq_next]

/-! ### The obligations -/

/-- Settles O15: the two values of SYS_BEHAVIOUR are the two answers of `SYS`; under NOP only the run state is set. -/
theorem sysFaultsOrDoesNothing : Obligations.SysFaultsOrDoesNothing := by
  unfold Obligations.SysFaultsOrDoesNothing
  refine ⟨rfl, fun s nnn hfault => exec_sys_of_fault hfault nnn, fun s nnn hnop => ?_⟩
  exact ⟨_, exec_sys_of_nop hnop nnn, State.toFetch_runState s, (Unchanged.refl s _).toFetch⟩

/-- Settles O16: both jumps set `pc` alone, and neither target wraps. -/
theorem jumpsSetPc : Obligations.JumpsSetPc := by
  unfold Obligations.JumpsSetPc
  intro s nnn
  have hframe (a : Word) : Unchanged s (State.toFetch (State.setPc s a)) fun p => p = .pc :=
    ((Unchanged.refl s fun p => p = .pc).setPc rfl).toFetch
  constructor
  · exact ⟨_, exec_jp nnn s, State.toFetch_runState _, toNat_zextAddr nnn, hframe _⟩
  · exact ⟨_, exec_jpV0Nnn nnn s, State.toFetch_runState _, toNat_zextAddr_add_zextByte nnn _, hframe _⟩

/-- `CALL` and `RET` write `pc` and the stack and nothing else (R141, R142). -/
theorem unchanged_setPc_setStack (s : State) (a : Word) (entries : List Word) :
    Unchanged s (State.toFetch { State.setPc s a with stack := entries }) fun p => p = .pc ∨ p = .stack :=
  (((Unchanged.refl s _).setPc (.inl rfl)).setStack (.inr rfl)).toFetch

/-- Settles O17: the two branches of `CALL` by whether the stack has room. -/
theorem callPushesAndJumps : Obligations.CallPushesAndJumps := by
  unfold Obligations.CallPushesAndJumps
  intro s nnn
  refine ⟨fun hroom => ?_, fun hfull => exec_call_of_full hfull.ge nnn⟩
  exact ⟨_, exec_call_of_room hroom nnn, State.toFetch_runState _, State.toFetch_stack _, toNat_zextAddr nnn,
    unchanged_setPc_setStack s _ _⟩

/-- Settles O18: the two branches of `RET` by whether the stack has a top. -/
theorem retPopsIntoPc : Obligations.RetPopsIntoPc := by
  unfold Obligations.RetPopsIntoPc
  refine ⟨fun s a rest hstack => ?_, fun s hempty => exec_ret_of_nil hempty⟩
  exact ⟨_, exec_ret_of_cons hstack, State.toFetch_runState _, State.toFetch_pc _, State.toFetch_stack _,
    unchanged_setPc_setStack s a rest⟩

end Sys2Proof.Machine
end

section
/-! PROOFS. Register arithmetic and logic (`42_alu.md`): the forms that write `V[x]` and no flag. -/

namespace Sys2Proof.Machine

theorem Unchanged.setReg {s t : State} {w : Part → Prop} {x : Nibble} (h : Unchanged s t w) (hx : w (.reg x))
    {b : Byte} : Unchanged s (State.setReg t x b) w := by
  intro p hp
  have hsame := h p hp
  cases p with
  | reg r =>
    have hne : r ≠ x := fun heq => hp (heq ▸ hx)
    exact (State.reg_setReg_other t b hne).trans hsame
  | index | pc | stack | delayTimer | soundTimer | pixel | keys | pressedKey | byte | ibPc | ibOp | ibInstr | effect
  | faultRecord | fetchCount | params | hostQueue | draws => exact hsame

/-- Completing with one register written: the register holds the value, the next state is FETCH, and nothing else
moves (R21, R127). VF is a register like the others here, so it is kept unless it is `V[x]`. -/
theorem completes_setReg (s : State) (x : Nibble) (b : Byte) :
    ∃ t, completes (State.setReg s x b) = .next t ∧ t.runState = .fetch ∧ State.reg t x = b ∧
      Unchanged s t fun p => p = .reg x :=
  ⟨_, rfl, State.toFetch_runState _, (State.reg_toFetch _ x).trans (State.reg_setReg_same s x b),
    ((Unchanged.refl s fun p => p = .reg x).setReg rfl).toFetch⟩

/-! ### What each form answers -/

theorem exec_ldVxKk (x : Nibble) (kk : Byte) (s : State) :
    exec (.ldVxKk x kk) s = completes (State.setReg s x kk) := rfl

theorem exec_addVxKk (x : Nibble) (kk : Byte) (s : State) :
    exec (.addVxKk x kk) s = completes (State.setReg s x (State.reg s x + kk)) := rfl

theorem exec_orVxVy (x y : Nibble) (s : State) :
    exec (.orVxVy x y) s = completes (State.setReg s x (State.reg s x ||| State.reg s y)) := rfl

theorem exec_andVxVy (x y : Nibble) (s : State) :
    exec (.andVxVy x y) s = completes (State.setReg s x (State.reg s x &&& State.reg s y)) := rfl

theorem exec_xorVxVy (x y : Nibble) (s : State) :
    exec (.xorVxVy x y) s = completes (State.setReg s x (State.reg s x ^^^ State.reg s y)) := rfl

/-! ### The obligations -/

/-- Settles O21: both forms write `V[x]` alone, and the sum of two bytes is taken modulo 2^8. -/
theorem immediateLoadAndAdd : Obligations.ImmediateLoadAndAdd := by
  unfold Obligations.ImmediateLoadAndAdd
  intro s x kk
  rw [exec_ldVxKk, exec_addVxKk]
  refine ⟨completes_setReg s x kk, ?add⟩
  case add =>
    obtain ⟨t, hnext, hfetch, hreg, hframe⟩ := completes_setReg s x (State.reg s x + kk)
    have hsum : (State.reg t x).toNat = ((State.reg s x).toNat + kk.toNat) % 256 := by
      rw [hreg, BitVec.toNat_add]
    exact ⟨t, hnext, hfetch, hsum, hframe⟩

/-- `completes_setReg` bit by bit, for a byte whose bits are given by `bit`. -/
theorem completes_setReg_bits (s : State) (x : Nibble) {b : Byte} {bit : Nat → Bool}
    (hbit : ∀ k, b.getLsbD k = bit k) :
    ∃ t, completes (State.setReg s x b) = .next t ∧ t.runState = .fetch ∧ Unchanged s t (fun p => p = .reg x) ∧
      ∀ k < 8, (State.reg t x).getLsbD k = bit k := by
  obtain ⟨t, hnext, hfetch, hreg, hframe⟩ := completes_setReg s x b
  exact ⟨t, hnext, hfetch, hframe, fun k _ => hreg ▸ hbit k⟩

/-- Settles O23: each form writes the bitwise combination of `V[x]` and `V[y]` to `V[x]` alone. -/
theorem bitwiseLogic : Obligations.BitwiseLogic := by
  unfold Obligations.BitwiseLogic
  intro s x y
  rw [exec_orVxVy, exec_andVxVy, exec_xorVxVy]
  refine ⟨?or, ?and, ?xor⟩
  case or => exact completes_setReg_bits s x fun k => BitVec.getLsbD_or
  case and => exact completes_setReg_bits s x fun k => BitVec.getLsbD_and
  case xor => exact completes_setReg_bits s x fun k => BitVec.getLsbD_xor

end Sys2Proof.Machine
end

section
/-! PROOFS. The display (`43_display.md`): clearing the screen. -/

namespace Sys2Proof.Machine

theorem Unchanged.setScreen {s t : State} {w : Part → Prop} (h : Unchanged s t w)
    (hpixel : ∀ py px, w (.pixel py px)) {rows : Vector (BitVec 64) 32} :
    Unchanged s { t with screen := rows } w := by
  intro p hp
  have hsame := h p hp
  cases p with
  | pixel py px => exact absurd (hpixel py px) hp
  | reg | index | pc | stack | delayTimer | soundTimer | keys | pressedKey | byte | ibPc | ibOp | ibInstr | effect
  | faultRecord | fetchCount | params | hostQueue | draws => exact hsame

/-- A row inside the screen is zero, and outside it every pixel reads as off (R34). -/
@[simp] theorem pixel_replicate_zero (py px : Nat) : pixel (Vector.replicate 32 0#64) py px = false := by
  unfold pixel
  rw [Vector.getElem?_replicate]
  split <;> exact BitVec.getLsbD_zero

theorem exec_cls (s : State) :
    exec .cls s = .next (State.toFetch { s with screen := Vector.replicate 32 0#64 }) := rfl

/-- Settles O28: the screen becomes rows of zeros, and no other part is written. -/
theorem clearScreenTurnsAllOff : Obligations.ClearScreenTurnsAllOff := by
  unfold Obligations.ClearScreenTurnsAllOff
  intro s
  exact ⟨_, exec_cls s, State.toFetch_runState _, pixel_replicate_zero,
    ((Unchanged.refl s _).setScreen fun py px => ⟨py, px, rfl⟩).toFetch⟩

end Sys2Proof.Machine
end

section
/-! PROOFS. The keypad (`44_keypad.md`): the skips on a key. -/

namespace Sys2Proof.Machine

/-! ### Skipping -/

/-- A skip that is taken moves `pc` by 2 modulo 2^16; one that is not leaves it (R28, R149). -/
theorem State.toNat_skipIf_pc (s : State) (c : Bool) :
    (State.skipIf s c).pc.toNat = (s.pc.toNat + if c = true then 2 else 0) % 65536 := by
  cases c with
  | false => exact (Nat.mod_eq_of_lt s.pc.isLt).symm
  | true => exact BitVec.toNat_add s.pc 2#16

theorem Unchanged.skipIf {s t : State} {w : Part → Prop} (h : Unchanged s t w) (hpc : w .pc) (c : Bool) :
    Unchanged s (State.skipIf t c) w := by
  cases c with
  | false => exact h
  | true => exact h.setPc hpc

/-- Completing with a conditional skip: the next state is FETCH, and `pc` alone is written (R127, R149). -/
theorem completes_skipIf (s : State) (c : Bool) :
    ∃ t, completes (State.skipIf s c) = .next t ∧ t.runState = .fetch ∧ Unchanged s t (fun p => p = .pc) ∧
      t.pc.toNat = (s.pc.toNat + if c = true then 2 else 0) % 65536 :=
  ⟨_, rfl, State.toFetch_runState _, ((Unchanged.refl s fun p => p = .pc).skipIf rfl c).toFetch,
    State.toNat_skipIf_pc s c⟩

/-! ### What each form answers -/

section
variable {s : State} {x : Nibble}

theorem exec_skpVx_of_lt (h : (State.reg s x).toNat < 16) :
    exec (.skpVx x) s = completes (State.skipIf s s.keys[(State.reg s x).toNat]) := by
  simp only [exec, execSkpVx, State.keyFlag?_lt s _ h]

theorem exec_sknpVx_of_lt (h : (State.reg s x).toNat < 16) :
    exec (.sknpVx x) s = completes (State.skipIf s !s.keys[(State.reg s x).toNat]) := by
  simp only [exec, execSknpVx, State.keyFlag?_lt s _ h]

theorem exec_skpVx_of_ge (h : 16 ≤ (State.reg s x).toNat) :
    exec (.skpVx x) s = .next (Faulted s .keyIndexOutOfRange (.key (State.reg s x))) := by
  simp only [exec, execSkpVx, State.keyFlag?_ge s _ h, faults_eq_next]

theorem exec_sknpVx_of_ge (h : 16 ≤ (State.reg s x).toNat) :
    exec (.sknpVx x) s = .next (Faulted s .keyIndexOutOfRange (.key (State.reg s x))) := by
  simp only [exec, execSknpVx, State.keyFlag?_ge s _ h, faults_eq_next]

end

/-! ### The obligation -/

/-- Settles O32: below 16 each form is a conditional skip, `SKNP` on the negated flag; from 16 on the key lookup finds
no flag and both forms fault. -/
theorem keySkips : Obligations.KeySkips := by
  unfold Obligations.KeySkips
  intro s x
  refine ⟨fun h => ⟨?skp, ?sknp⟩, fun h => ⟨exec_skpVx_of_ge h, exec_sknpVx_of_ge h⟩⟩
  case skp =>
    rw [exec_skpVx_of_lt h]
    exact completes_skipIf s _
  case sknp =>
    rw [exec_sknpVx_of_lt h]
    simpa only [Bool.not_eq_true', ← Bool.not_eq_true, ite_not] using
      completes_skipIf s !s.keys[(State.reg s x).toNat]

end Sys2Proof.Machine
end

section
/-! PROOFS. The index register and memory (`45_index_memory.md`): the forms that write `I`, the stores at `I` and the
block load. -/

namespace Sys2Proof.Machine

/-! ### Frames of the updates these forms make -/

section
variable {s t : State} {w : Part → Prop}

theorem Unchanged.setI (h : Unchanged s t w) (hindex : w .index) {a : Word} : Unchanged s (State.setI t a) w := by
  intro p hp
  have hsame := h p hp
  cases p with
  | index => exact absurd hindex hp
  | reg | pc | stack | delayTimer | soundTimer | pixel | keys | pressedKey | byte | ibPc | ibOp | ibInstr | effect
  | faultRecord | fetchCount | params | hostQueue | draws => exact hsame

/-- A store at `I` writes the bytes from `I` on, as many as the list holds (R203, R204). -/
theorem Unchanged.storeBytes (h : Unchanged s t w) {bs : List Byte}
    (hbyte : ∀ k < bs.length, w (.byte (t.i.toNat + k))) : Unchanged s (State.storeBytes t bs) w := by
  intro p hp
  have hsame := h p hp
  cases p with
  | byte a =>
    have houtside : a < t.i.toNat ∨ t.i.toNat + bs.length ≤ a := by
      by_contra! ⟨hfrom, hto⟩
      have hw := hbyte (a - t.i.toNat) (by omega)
      rw [Nat.add_sub_cancel' hfrom] at hw
      exact hp hw
    exact (Memory.read_writeBytes_other t.mem bs houtside).trans hsame
  | reg | index | pc | stack | delayTimer | soundTimer | pixel | keys | pressedKey | ibPc | ibOp | ibInstr | effect
  | faultRecord | fetchCount | params | hostQueue | draws => exact hsame

/-- Replacing the register file keeps a frame that lets every register that changes be written. -/
theorem Unchanged.setRegs (h : Unchanged s t w) {v : Vector Byte 16}
    (hreg : ∀ r, ¬ w (.reg r) → State.reg { t with v := v } r = State.reg t r) :
    Unchanged s { t with v := v } w := by
  intro p hp
  have hsame := h p hp
  cases p with
  | reg r => exact (hreg r hp).trans hsame
  | index | pc | stack | delayTimer | soundTimer | pixel | keys | pressedKey | byte | ibPc | ibOp | ibInstr | effect
  | faultRecord | fetchCount | params | hostQueue | draws => exact hsame

end

/-! ### Writing `I` -/

/-- Completing with `I` written: `I` holds the address, the next state is FETCH, and nothing else moves, VF included
(R127, R200 to R202). -/
theorem completes_setI (s : State) (a : Word) :
    ∃ t, completes (State.setI s a) = .next t ∧ t.runState = .fetch ∧ t.i.toNat = a.toNat ∧
      Unchanged s t fun p => p = .index :=
  ⟨_, rfl, State.toFetch_runState _, rfl, ((Unchanged.refl s fun p => p = .index).setI rfl).toFetch⟩

/-- Five times a byte is at most 0x4FB, so a glyph's address does not wrap (R202). -/
theorem toNat_glyphAddr (b : Byte) : (glyphAddr b).toNat = b.toNat * 5 := by
  have hb := b.isLt
  rw [glyphAddr, BitVec.toNat_mul, toNat_zextByte, BitVec.toNat_ofNat]
  omega

theorem exec_ldINnn (nnn : Addr) (s : State) :
    exec (.ldINnn nnn) s = completes (State.setI s (zextAddr nnn)) := rfl

theorem exec_addIVx (x : Nibble) (s : State) :
    exec (.addIVx x) s = completes (State.setI s (s.i + zextByte (State.reg s x))) := rfl

theorem exec_ldFVx (x : Nibble) (s : State) :
    exec (.ldFVx x) s = completes (State.setI s (glyphAddr (State.reg s x))) := rfl

/-- Settles O37: each form writes `I` alone; the address and the glyph's place fit 16 bits, and the sum is taken modulo
2^16. -/
theorem indexRegisterWrites : Obligations.IndexRegisterWrites := by
  unfold Obligations.IndexRegisterWrites
  intro s x nnn
  have hsum : (s.i + zextByte (State.reg s x)).toNat = (s.i.toNat + (State.reg s x).toNat) % 65536 := by
    rw [BitVec.toNat_add, toNat_zextByte]
  rw [exec_ldINnn, exec_addIVx, exec_ldFVx, ← hsum, ← toNat_zextAddr, ← toNat_glyphAddr]
  exact ⟨completes_setI s _, completes_setI s _, completes_setI s _⟩

/-! ### Storing at `I` -/

/-- Completing with a store in bounds: the bytes stand at `I`, `I + 1`, …, the next state is FETCH, and nothing else
moves (R127, R203, R204). -/
theorem completes_storeBytes {s : State} {bs : List Byte} (hwf : Memory.wf s.mem = true)
    (hin : s.i.toNat + bs.length ≤ 65536) :
    ∃ t, completes (State.storeBytes s bs) = .next t ∧ t.runState = .fetch ∧
      (∀ k (hk : k < bs.length), Memory.read t.mem (s.i.toNat + k) = bs[k]) ∧
      Unchanged s t fun p => ∃ k, k < bs.length ∧ p = .byte (s.i.toNat + k) :=
  ⟨_, rfl, State.toFetch_runState _, Memory.read_writeBytes_inside hin hwf,
    ((Unchanged.refl s _).storeBytes fun k hk => ⟨k, hk, rfl⟩).toFetch⟩

section
variable {s : State} {x : Nibble}

theorem exec_ldBVx_of_le (h : s.i.toNat + 3 ≤ 65536) :
    exec (.ldBVx x) s = completes (State.storeBytes s (decimalDigits (State.reg s x))) :=
  if_pos (inBounds_of_le h)

theorem exec_ldBVx_of_gt (h : 65536 < s.i.toNat + 3) :
    exec (.ldBVx x) s = .next (Faulted s .memoryOutOfBounds (.access s.i 3)) :=
  if_neg (ne_true_of_eq_false (inBounds_of_gt h))

theorem exec_ldMemVx_of_le (h : s.i.toNat + (x.toNat + 1) ≤ 65536) :
    exec (.ldMemVx x) s = completes (State.storeBytes s (State.regsUpTo s x)) :=
  if_pos (inBounds_of_le h)

theorem exec_ldMemVx_of_gt (h : 65536 < s.i.toNat + (x.toNat + 1)) :
    exec (.ldMemVx x) s = .next (Faulted s .memoryOutOfBounds (.access s.i (x.toNat + 1))) :=
  if_neg (ne_true_of_eq_false (inBounds_of_gt h))

end

/-- Each decimal digit of a byte fits a byte (R203). -/
theorem toNat_decimalDigits (b : Byte) :
    (decimalDigits b)[0].toNat = b.toNat / 100 ∧ (decimalDigits b)[1].toNat = b.toNat / 10 % 10 ∧
      (decimalDigits b)[2].toNat = b.toNat % 10 := by
  have hb := b.isLt
  simp only [decimalDigits, List.getElem_cons_zero, List.getElem_cons_succ, BitVec.toNat_ofNat]
  omega

/-- Settles O38: in bounds the three digits are stored at `I`, and out of bounds the check before the store faults. -/
theorem decimalDigitsStored : Obligations.DecimalDigitsStored := by
  unfold Obligations.DecimalDigitsStored
  intro s x hwf
  refine ⟨fun hin => ?stored, exec_ldBVx_of_gt⟩
  case stored =>
    obtain ⟨t, hnext, hfetch, hread, hframe⟩ :=
      completes_storeBytes (bs := decimalDigits (State.reg s x)) hwf hin
    simp only [length_decimalDigits] at hread hframe
    obtain ⟨hhundreds, htens, hones⟩ := toNat_decimalDigits (State.reg s x)
    refine ⟨t, exec_ldBVx_of_le hin ▸ hnext, hfetch, ?_, ?_, ?_, hframe⟩
    · exact (congrArg BitVec.toNat (hread 0 (by decide))).trans hhundreds
    · exact (congrArg BitVec.toNat (hread 1 (by decide))).trans htens
    · exact (congrArg BitVec.toNat (hread 2 (by decide))).trans hones

/-- Settles O39: in bounds the list `V[0]` to `V[x]` is stored at `I`, and out of bounds the check before the store
faults. -/
theorem registerBlockStored : Obligations.RegisterBlockStored := by
  unfold Obligations.RegisterBlockStored
  intro s x hwf
  refine ⟨fun hin => ?stored, exec_ldMemVx_of_gt⟩
  case stored =>
    have hlength : (State.regsUpTo s x).length = x.toNat + 1 := State.length_regsUpTo s x
    obtain ⟨t, hnext, hfetch, hread, hframe⟩ :=
      completes_storeBytes (bs := State.regsUpTo s x) hwf (hlength ▸ hin)
    simp only [hlength, Nat.lt_succ_iff] at hframe
    refine ⟨t, exec_ldMemVx_of_le hin ▸ hnext, hfetch, fun k hk => ?_, hframe⟩
    have hinside : k.toNat < (State.regsUpTo s x).length := hlength ▸ Nat.lt_succ_of_le hk
    exact (hread k.toNat hinside).trans (State.getElem_regsUpTo s x k hinside)

/-! ### Loading registers from `I` -/

/-- After the block load register `r` holds byte `r` of the list, or what it held where the list has ended (R205). -/
theorem State.reg_writeRegs (s : State) (bs : List Byte) (r : Nibble) :
    State.reg { s with v := writeRegs s.v 0 bs } r = bs[r.toNat]?.getD (State.reg s r) :=
  (getElem_writeRegs s.v 0 bs r.toNat r.isLt).trans (if_pos (Nat.zero_le _))

/-- A register up to `V[x]` holds the byte at its distance from `I`. -/
theorem State.reg_writeRegs_loadBytes_of_le (s : State) {x r : Nibble} (h : r.toNat ≤ x.toNat) :
    State.reg { s with v := writeRegs s.v 0 (State.loadBytes s (blockLen x)) } r =
      Memory.read s.mem (s.i.toNat + r.toNat) := by
  have hloaded : r.toNat < blockLen x := Nat.lt_succ_of_le h
  rw [State.reg_writeRegs, State.loadBytes, Memory.getElem?_readBytes _ _ _ _ hloaded, Option.getD_some]

/-- A register beyond `V[x]` is not loaded. -/
theorem State.reg_writeRegs_loadBytes_of_gt (s : State) {x r : Nibble} (h : x.toNat < r.toNat) :
    State.reg { s with v := writeRegs s.v 0 (State.loadBytes s (blockLen x)) } r = State.reg s r := by
  have hend : (State.loadBytes s (blockLen x)).length ≤ r.toNat := (Memory.length_readBytes ..).trans_le h
  rw [State.reg_writeRegs, List.getElem?_eq_none hend, Option.getD_none]

section
variable {s : State} {x : Nibble}

theorem exec_ldVxMem_of_le (h : s.i.toNat + (x.toNat + 1) ≤ 65536) :
    exec (.ldVxMem x) s = completes { s with v := writeRegs s.v 0 (State.loadBytes s (blockLen x)) } :=
  if_pos (inBounds_of_le h)

theorem exec_ldVxMem_of_gt (h : 65536 < s.i.toNat + (x.toNat + 1)) :
    exec (.ldVxMem x) s = .next (Faulted s .memoryOutOfBounds (.access s.i (x.toNat + 1))) :=
  if_neg (ne_true_of_eq_false (inBounds_of_gt h))

end

/-- Settles O40: in bounds the registers up to `V[x]` take the bytes from `I` on, the others and the rest of the state
are kept, and out of bounds the check before the load faults. -/
theorem registerBlockLoaded : Obligations.RegisterBlockLoaded := by
  unfold Obligations.RegisterBlockLoaded
  intro s x
  refine ⟨fun hin => ?loaded, exec_ldVxMem_of_gt⟩
  case loaded =>
    have hkept (r : Nibble) (hr : ¬ ∃ k : Nibble, k.toNat ≤ x.toNat ∧ Part.reg r = .reg k) : x.toNat < r.toNat :=
      Nat.lt_of_not_le fun hle => hr ⟨r, hle, rfl⟩
    exact ⟨_, exec_ldVxMem_of_le hin, State.toFetch_runState _, fun k => State.reg_writeRegs_loadBytes_of_le s,
      ((Unchanged.refl s _).setRegs fun r hr => State.reg_writeRegs_loadBytes_of_gt s (hkept r hr)).toFetch⟩

end Sys2Proof.Machine
end

section
/-! PROOFS. Faults (`60_exceptions.md`): the accesses out of bounds, and that a fault is precise in each of the three
steps. -/

namespace Sys2Proof.Machine

/-! ### The sprite's access -/

section
variable {s : State} {x y n : Nibble}

theorem exec_drw_of_le (h : s.i.toNat + n.toNat ≤ 65536) :
    exec (.drw x y n) s =
      let cv := drawRows (State.reg s x) (State.reg s y) 0 (State.loadBytes s n.toNat) ⟨s.screen, false⟩
      completes (State.setVF { s with screen := cv.screen } (flagByte cv.hit)) :=
  if_pos (inBounds_of_le h)

theorem exec_drw_of_gt (h : 65536 < s.i.toNat + n.toNat) :
    exec (.drw x y n) s = .next (Faulted s .memoryOutOfBounds (.access s.i n.toNat)) :=
  if_neg (ne_true_of_eq_false (inBounds_of_gt h))

end

/-- Settles O41: each of the four accesses checks its bounds before it touches anything. -/
theorem outOfBoundsAccessFaults : Obligations.OutOfBoundsAccessFaults := by
  unfold Obligations.OutOfBoundsAccessFaults
  intro s x y n
  exact ⟨exec_drw_of_gt, exec_ldBVx_of_gt, fun h => ⟨exec_ldMemVx_of_gt h, exec_ldVxMem_of_gt h⟩⟩

/-! ### How an instruction ends -/

/-- The ways an instruction performed from `s` can end: it completes, its key wait goes on or is cancelled, or it
faults, and then the next state is `s` with the record and FAULTED (R127, R129, R236). -/
inductive Ending (s : State) : Result → Prop
  | completed {t : State} (h : t.runState = .fetch) : Ending s (.next t)
  | waiting {t : State} (h : t.runState = .waitKey) : Ending s (.next t)
  | cancelled {t : State} (h : t.runState = .halted) : Ending s (.next t)
  | faulted (kind : FaultKind) (info : FaultInfo) : Ending s (.next (Faulted s kind info))

/-- The key wait ends as the front end's next action has it: none, `UpdateKeys`, `ResolveKey`, `CancelWait`, in this
order (R192, R245). -/
theorem exec_ldVxK_ending (x : Nibble) (s : State) : Ending s (exec (.ldVxK x) s) := by
  simp only [exec, execLdVxK]
  split
  · exact .waiting rfl
  · exact .waiting rfl
  · exact .completed rfl
  · exact .cancelled rfl

/-- Only a form with a check of its own can fault, on one side of that check; the others complete, the key wait apart. -/
theorem exec_ending (i : Instr) (s : State) : Ending s (exec i s) := by
  cases i with
  | sys nnn =>
    cases h : s.params.sysBehaviour with
    | fault => exact exec_sys_of_fault h nnn ▸ .faulted ..
    | nop => exact exec_sys_of_nop h nnn ▸ .completed rfl
  | ret =>
    cases h : s.stack with
    | nil => exact exec_ret_of_nil h ▸ .faulted ..
    | cons a rest => exact exec_ret_of_cons h ▸ .completed rfl
  | call nnn =>
    obtain hroom | hfull := Nat.lt_or_ge s.stack.length 16
    · exact exec_call_of_room hroom nnn ▸ .completed rfl
    · exact exec_call_of_full hfull nnn ▸ .faulted ..
  | drw x y n =>
    obtain hout | hin := Nat.lt_or_ge 65536 (s.i.toNat + n.toNat)
    · exact exec_drw_of_gt hout ▸ .faulted ..
    · exact exec_drw_of_le hin ▸ .completed rfl
  | ldBVx x =>
    obtain hout | hin := Nat.lt_or_ge 65536 (s.i.toNat + 3)
    · exact exec_ldBVx_of_gt hout ▸ .faulted ..
    · exact exec_ldBVx_of_le hin ▸ .completed rfl
  | ldMemVx x =>
    obtain hout | hin := Nat.lt_or_ge 65536 (s.i.toNat + (x.toNat + 1))
    · exact exec_ldMemVx_of_gt hout ▸ .faulted ..
    · exact exec_ldMemVx_of_le hin ▸ .completed rfl
  | ldVxMem x =>
    obtain hout | hin := Nat.lt_or_ge 65536 (s.i.toNat + (x.toNat + 1))
    · exact exec_ldVxMem_of_gt hout ▸ .faulted ..
    · exact exec_ldVxMem_of_le hin ▸ .completed rfl
  | skpVx x =>
    obtain hkey | hnone := Nat.lt_or_ge (State.reg s x).toNat 16
    · exact exec_skpVx_of_lt hkey ▸ .completed rfl
    · exact exec_skpVx_of_ge hnone ▸ .faulted ..
  | sknpVx x =>
    obtain hkey | hnone := Nat.lt_or_ge (State.reg s x).toNat 16
    · exact exec_sknpVx_of_lt hkey ▸ .completed rfl
    · exact exec_sknpVx_of_ge hnone ▸ .faulted ..
  | ldVxK x => exact exec_ldVxK_ending x s
  | cls | jp | seVxKk | sneVxKk | seVxVy | ldVxKk | addVxKk | ldVxVy | orVxVy | andVxVy | xorVxVy | addVxVy | subVxVy
  | shrVx | subnVxVy | shlVx | sneVxVy | ldINnn | jpV0Nnn | rndVxKk | ldVxDt | ldDtVx | ldStVx | addIVx | ldFVx =>
    exact .completed rfl

/-! ### A fault is precise in each step -/

theorem State.raise_eq_Faulted (s : State) (kind : FaultKind) (info : FaultInfo) :
    State.raise s kind info = Faulted s kind info := rfl

/-- FAULTED is reached in EXECUTE only by raising a fault in the state the instruction starts from (R236). -/
theorem eq_Faulted_of_exec {i : Instr} {s t : State} (hnext : exec i s = .next t) (hfaulted : t.runState = .faulted) :
    ∃ kind info, t = Faulted s kind info := by
  have hending : Ending s (.next t) := hnext ▸ exec_ending i s
  cases hending with
  | completed h | waiting h | cancelled h => cases h.symm.trans hfaulted
  | faulted kind info => exact ⟨kind, info, rfl⟩

/-- The DECODE step faults only on a word that is no instruction (R228). -/
theorem decodeStep_eq_Faulted {s : State} (hfaulted : (decodeStep s).runState = .faulted) :
    decodeStep s = Faulted s .illegalOpcode .nothing := by
  cases hdecode : decode s.ibOp with
  | instr i =>
    rw [decodeStep_instr s hdecode, State.buffer_runState] at hfaulted
    split at hfaulted <;> cases hfaulted
  | illegal | truncated =>
    simp only [decodeStep, hdecode, State.raise_eq_Faulted]

/-- The FETCH step faults only on a `pc` that cannot be fetched from (R123). -/
theorem not_fetchable_of_fetchStep_faulted {s : State} (hfaulted : (fetchStep s).runState = .faulted) :
    fetchable s.pc = false := by
  by_contra hgood
  rw [fetchStep_ok s (Bool.eq_true_of_not_eq_false hgood), State.timerTick_runState] at hfaulted
  cases hfaulted

/-- Settles O48: in each step FAULTED is reached only by taking a fault in the state before the step, which writes the
run state and the record. -/
theorem faultsArePrecise : Obligations.FaultsArePrecise := by
  unfold Obligations.FaultsArePrecise
  refine ⟨fun i s t hnext hfaulted => ?execute, fun s hfaulted => ?decode, fun s hfaulted => ?fetch⟩
  case execute =>
    obtain ⟨kind, info, rfl⟩ := eq_Faulted_of_exec hnext hfaulted
    exact ⟨rfl, ⟨kind, info, rfl⟩, id⟩
  case decode =>
    rw [decodeStep_eq_Faulted hfaulted]
    rfl
  case fetch =>
    rw [fetchStep_bad s (not_fetchable_of_fetchStep_faulted hfaulted)]
    exact ⟨rfl, rfl⟩

end Sys2Proof.Machine
end

section
/-! PROOFS. Encoding (`30_encoding.md`): the round trips of the decoder and the encoder. -/

namespace Sys2Proof

/-! ### A word is packed from its fields, in each format -/

theorem packXYN_fields (w : Word) : packXYN (opFamily w) (opX w) (opY w) (opN w) = w := by
  refine eq_of_toNat ?_
  rw [toNat_packXYN, toNat_opFamily, toNat_opX, toNat_opY, toNat_opN]
  omega

theorem packXKK_fields (w : Word) : packXKK (opFamily w) (opX w) (opKk w) = w := by
  refine eq_of_toNat ?_
  rw [toNat_packXKK, toNat_opFamily, toNat_opX, toNat_opKk]
  omega

theorem packNNN_fields (w : Word) : packNNN (opFamily w) (opNnn w) = w := by
  refine eq_of_toNat ?_
  rw [toNat_packNNN, toNat_opFamily, toNat_opNnn]
  omega

section
variable {w : Word} {h : Nibble}

theorem packXYN_of_fields {n : Nibble} (hfamily : opFamily w = h) (hn : opN w = n) :
    packXYN h (opX w) (opY w) n = w := hfamily ▸ hn ▸ packXYN_fields w

theorem packXKK_of_fields {kk : Byte} (hfamily : opFamily w = h) (hkk : opKk w = kk) :
    packXKK h (opX w) kk = w := hfamily ▸ hkk ▸ packXKK_fields w

theorem packNNN_of_family (hfamily : opFamily w = h) : packNNN h (opNnn w) = w := hfamily ▸ packNNN_fields w

end

/-! ### Decoding an encoded instruction -/

theorem packNNN_left_inj {h : Nibble} {a b : Addr} : packNNN h a = packNNN h b ↔ a = b :=
  ⟨fun heq => by simpa using congrArg opNnn heq, congrArg _⟩

theorem Instr.wellFormed_sys (nnn : Addr) :
    (Instr.sys nnn).wellFormed = true ↔ nnn ≠ 0x0E0#12 ∧ nnn ≠ 0x0EE#12 := by
  simp [Instr.wellFormed]

/-- The two words of family 0 that are not `SYS` are those of the two addresses an ill-formed `SYS` has (R83). -/
theorem decodeFamily0_packNNN {nnn : Addr} (hcls : nnn ≠ 0x0E0#12) (hret : nnn ≠ 0x0EE#12) :
    decodeFamily0 (packNNN 0x0#4 nnn) = .instr (.sys nnn) := by
  have hne_cls : packNNN 0x0#4 nnn ≠ 0x00E0#16 := fun heq => hcls (packNNN_left_inj (b := 0x0E0#12).mp heq)
  have hne_ret : packNNN 0x0#4 nnn ≠ 0x00EE#16 := fun heq => hret (packNNN_left_inj (b := 0x0EE#12).mp heq)
  rw [decodeFamily0, if_neg hne_cls, if_neg hne_ret, opNnn_packNNN]

/-- The decoder reads the fields back that the encoder packed, and its family's dispatch is on the packed opcode. -/
theorem decode_encode (i : Instr) (hwf : i.wellFormed = true) : decode (encode i) = .instr i := by
  cases i with
  | cls | ret => decide
  | sys nnn =>
    obtain ⟨hcls, hret⟩ := (Instr.wellFormed_sys nnn).mp hwf
    simpa [encode, decode] using decodeFamily0_packNNN hcls hret
  | jp | call | ldINnn | jpV0Nnn => simp [encode, decode]
  | seVxKk | sneVxKk | ldVxKk | addVxKk | rndVxKk => simp [encode, decode]
  | seVxVy | sneVxVy | drw => simp [encode, decode]
  | ldVxVy | orVxVy | andVxVy | xorVxVy | addVxVy | subVxVy | shrVx | subnVxVy | shlVx =>
    simp [encode, decode, decodeFamily8]
  | skpVx | sknpVx => simp [encode, decode, decodeFamilyE]
  | ldVxDt | ldVxK | ldDtVx | ldStVx | addIVx | ldFVx | ldBVx | ldMemVx | ldVxMem =>
    simp [encode, decode, decodeFamilyF]

/-- Settles O1: by the case split of the encoder over the rows of the opcode map. -/
theorem decodeOfEncode : Obligations.DecodeOfEncode := by
  unfold Obligations.DecodeOfEncode
  exact decode_encode

/-! ### Encoding a decoded word -/

/-- What a family's decoder answers is a well-formed instruction with this word. -/
def Reencodes (w : Word) (v : Verdict) : Prop := ∀ i, v = .instr i → encode i = w ∧ i.wellFormed = true

section
variable {w : Word}

theorem reencodes_illegal : Reencodes w .illegal := by nofun

theorem reencodes_instr {i : Instr} (hwf : i.wellFormed = true) (hencode : encode i = w) :
    Reencodes w (.instr i) := by
  rintro _ ⟨⟩
  exact ⟨hencode, hwf⟩

theorem reencodes_decodeFamily0 (hfamily : opFamily w = 0x0#4) : Reencodes w (decodeFamily0 w) := by
  unfold decodeFamily0
  split_ifs with hcls hret
  · exact reencodes_instr rfl hcls.symm
  · exact reencodes_instr rfl hret.symm
  · have hword : packNNN 0x0#4 (opNnn w) = w := packNNN_of_family hfamily
    refine reencodes_instr ((Instr.wellFormed_sys _).mpr ⟨fun haddr => hcls ?_, fun haddr => hret ?_⟩) hword
    · rw [← hword, haddr]; rfl
    · rw [← hword, haddr]; rfl

theorem reencodes_decodeFamily8 (hfamily : opFamily w = 0x8#4) : Reencodes w (decodeFamily8 w) := by
  unfold decodeFamily8
  split_ifs with h0 h1 h2 h3 h4 h5 h6 h7 hE
  case neg => exact reencodes_illegal
  all_goals exact reencodes_instr rfl (packXYN_of_fields hfamily ‹_›)

theorem reencodes_decodeFamilyE (hfamily : opFamily w = 0xE#4) : Reencodes w (decodeFamilyE w) := by
  unfold decodeFamilyE
  split_ifs
  case neg => exact reencodes_illegal
  all_goals exact reencodes_instr rfl (packXKK_of_fields hfamily ‹_›)

theorem reencodes_decodeFamilyF (hfamily : opFamily w = 0xF#4) : Reencodes w (decodeFamilyF w) := by
  unfold decodeFamilyF
  split_ifs
  case neg => exact reencodes_illegal
  all_goals exact reencodes_instr rfl (packXKK_of_fields hfamily ‹_›)

/-- The last arm of the decoder is family F: a nibble that is none of the others. -/
theorem opFamily_eq_F (hother : ∀ k < 15, (opFamily w).toNat ≠ k) : opFamily w = 0xF#4 := by
  have hlt := (opFamily w).isLt
  have hge : 15 ≤ (opFamily w).toNat := Nat.le_of_not_lt fun hlt => hother _ hlt rfl
  exact eq_of_toNat (Nat.le_antisymm (Nat.le_of_lt_succ hlt) hge)

theorem reencodes_decode (w : Word) : Reencodes w (decode w) := by
  unfold decode
  split
  case h_1 hf => exact reencodes_decodeFamily0 (eq_of_toNat hf)
  case h_2 hf | h_3 hf | h_11 hf | h_12 hf => exact reencodes_instr rfl (packNNN_of_family (eq_of_toNat hf))
  case h_4 hf | h_5 hf | h_7 hf | h_8 hf | h_13 hf =>
    exact reencodes_instr rfl (packXKK_of_fields (eq_of_toNat hf) rfl)
  case h_6 hf | h_10 hf =>
    split
    · exact reencodes_instr rfl (packXYN_of_fields (eq_of_toNat hf) ‹_›)
    · exact reencodes_illegal
  case h_14 hf => exact reencodes_instr rfl (packXYN_of_fields (eq_of_toNat hf) rfl)
  case h_9 hf => exact reencodes_decodeFamily8 (eq_of_toNat hf)
  case h_15 hf => exact reencodes_decodeFamilyE (eq_of_toNat hf)
  case h_16 => exact reencodes_decodeFamilyF (opFamily_eq_F (by grind))

end

/-- Settles O2: the arms of the decoder, one family at a time; the decode step puts the decoded instruction in the
buffer beside its word. -/
theorem encodeOfDecode : Obligations.EncodeOfDecode := by
  unfold Obligations.EncodeOfDecode
  refine ⟨reencodes_decode, fun s i hdecode => ?_⟩
  rw [Machine.decodeStep_instr s hdecode]
  exact ⟨Machine.State.buffer_ibInstr s i, Machine.State.buffer_ibOp s i, (reencodes_decode s.ibOp i hdecode).1⟩

theorem encode_of_decode {w : Word} {i : Instr} (h : decode w = .instr i) : encode i = w := (reencodes_decode w i h).1

end Sys2Proof
end

section
/-! PROOFS. Encoding (`30_encoding.md`): the illegal words, and the opcode map. -/

namespace Sys2Proof

/-! ### Illegal words (R88) -/

section
variable (w : Word)

theorem opN_eq_iff (n : Nibble) : opN w = n ↔ w.toNat % 16 = n.toNat := by
  rw [← toNat_opN]
  exact BitVec.toNat_inj.symm

theorem opKk_eq_iff (kk : Byte) : opKk w = kk ↔ w.toNat % 256 = kk.toNat := by
  rw [← toNat_opKk]
  exact BitVec.toNat_inj.symm

theorem decodeFamily0_ne_illegal : decodeFamily0 w ≠ .illegal := by
  unfold decodeFamily0
  split_ifs <;> nofun

theorem decodeFamily8_eq_illegal_iff :
    decodeFamily8 w = .illegal ↔ w.toNat % 16 ∈ [8, 9, 0xA, 0xB, 0xC, 0xD, 0xF] := by
  have hlt : w.toNat % 16 < 16 := Nat.mod_lt _ (by decide)
  simp only [decodeFamily8, opN_eq_iff, ite_eq_iff, BitVec.toNat_ofNat, List.mem_cons, List.not_mem_nil, reduceCtorEq,
    and_false, false_or, and_true, or_false]
  omega

theorem decodeFamilyE_eq_illegal_iff : decodeFamilyE w = .illegal ↔ w.toNat % 256 ∉ [0x9E, 0xA1] := by
  simp [decodeFamilyE, opKk_eq_iff, ite_eq_iff]

theorem decodeFamilyF_eq_illegal_iff :
    decodeFamilyF w = .illegal ↔
      w.toNat % 256 ∉ [0x07, 0x0A, 0x15, 0x18, 0x1E, 0x29, 0x33, 0x55, 0x65] := by
  simp [decodeFamilyF, opKk_eq_iff, ite_eq_iff]

end

/-- Settles O3: family by family; each clause of the list is one family's, which its top nibble tells. -/
theorem illegalWordsExactly : Obligations.IllegalWordsExactly := by
  unfold Obligations.IllegalWordsExactly
  intro w
  rw [← toNat_opFamily]
  unfold decode
  split
  case h_1 hf => simp [hf, decodeFamily0_ne_illegal]
  case h_2 hf | h_3 hf | h_4 hf | h_5 hf | h_7 hf | h_8 hf | h_11 hf | h_12 hf | h_13 hf | h_14 hf => simp [hf]
  case h_6 hf | h_10 hf => simp [hf, opN_eq_iff]
  case h_9 hf => simp [hf, decodeFamily8_eq_illegal_iff]
  case h_15 hf => simp [hf, decodeFamilyE_eq_illegal_iff]
  case h_16 =>
    have hf : opFamily w = 0xF#4 := opFamily_eq_F (by grind)
    simp [hf, decodeFamilyF_eq_illegal_iff]

/-! ### The opcode map (R86) -/

/-- Every row's encoding has the row's fixed bits (R86). -/
theorem encode_and_mask (i : Instr) : encode i &&& i.mask = i.pattern := by
  cases i with
  | cls => exact Laws.MaskMatch.cls
  | ret => exact Laws.MaskMatch.ret
  | sys nnn => exact Laws.MaskMatch.sys nnn
  | jp nnn => exact Laws.MaskMatch.jp nnn
  | call nnn => exact Laws.MaskMatch.call nnn
  | seVxKk x kk => exact Laws.MaskMatch.seVxKk x kk
  | sneVxKk x kk => exact Laws.MaskMatch.sneVxKk x kk
  | seVxVy x y => exact Laws.MaskMatch.seVxVy x y
  | ldVxKk x kk => exact Laws.MaskMatch.ldVxKk x kk
  | addVxKk x kk => exact Laws.MaskMatch.addVxKk x kk
  | ldVxVy x y => exact Laws.MaskMatch.ldVxVy x y
  | orVxVy x y => exact Laws.MaskMatch.orVxVy x y
  | andVxVy x y => exact Laws.MaskMatch.andVxVy x y
  | xorVxVy x y => exact Laws.MaskMatch.xorVxVy x y
  | addVxVy x y => exact Laws.MaskMatch.addVxVy x y
  | subVxVy x y => exact Laws.MaskMatch.subVxVy x y
  | shrVx x y => exact Laws.MaskMatch.shrVx x y
  | subnVxVy x y => exact Laws.MaskMatch.subnVxVy x y
  | shlVx x y => exact Laws.MaskMatch.shlVx x y
  | sneVxVy x y => exact Laws.MaskMatch.sneVxVy x y
  | ldINnn nnn => exact Laws.MaskMatch.ldINnn nnn
  | jpV0Nnn nnn => exact Laws.MaskMatch.jpV0Nnn nnn
  | rndVxKk x kk => exact Laws.MaskMatch.rndVxKk x kk
  | drw x y n => exact Laws.MaskMatch.drw x y n
  | skpVx x => exact Laws.MaskMatch.skpVx x
  | sknpVx x => exact Laws.MaskMatch.sknpVx x
  | ldVxDt x => exact Laws.MaskMatch.ldVxDt x
  | ldVxK x => exact Laws.MaskMatch.ldVxK x
  | ldDtVx x => exact Laws.MaskMatch.ldDtVx x
  | ldStVx x => exact Laws.MaskMatch.ldStVx x
  | addIVx x => exact Laws.MaskMatch.addIVx x
  | ldFVx x => exact Laws.MaskMatch.ldFVx x
  | ldBVx x => exact Laws.MaskMatch.ldBVx x
  | ldMemVx x => exact Laws.MaskMatch.ldMemVx x
  | ldVxMem x => exact Laws.MaskMatch.ldVxMem x

section
variable {w : Word} {i : Instr}

/-- Every row fixes the top nibble. -/
theorem opFamily_of_match (hmatch : w &&& i.mask = i.pattern) : (opFamily w).toNat = i.pattern.toNat / 4096 := by
  have hnumber : i.mask.toNat / 4096 = 15 := by cases i <;> simp [Instr.mask]
  have hmask : opFamily i.mask = BitVec.allOnes 4 := eq_of_toNat ((toNat_opFamily _).trans hnumber)
  rw [← toNat_opFamily, ← hmatch]
  simp only [opFamily, BitVec.extractLsb'_and] at hmask ⊢
  rw [hmask, BitVec.and_allOnes]

theorem mod_16_of_match (hmatch : w &&& i.mask = i.pattern) (hlow : i.mask.toNat % 16 = 15) :
    w.toNat % 16 = i.pattern.toNat % 16 := by
  have hmask : opN i.mask = BitVec.allOnes 4 := eq_of_toNat ((toNat_opN _).trans hlow)
  rw [← toNat_opN, ← toNat_opN, ← hmatch]
  simp only [opN, BitVec.extractLsb'_and] at hmask ⊢
  rw [hmask, BitVec.and_allOnes]

theorem mod_256_of_match (hmatch : w &&& i.mask = i.pattern) (hlow : i.mask.toNat % 256 = 255) :
    w.toNat % 256 = i.pattern.toNat % 256 := by
  have hmask : opKk i.mask = BitVec.allOnes 8 := eq_of_toNat ((toNat_opKk _).trans hlow)
  rw [← toNat_opKk, ← toNat_opKk, ← hmatch]
  simp only [opKk, BitVec.extractLsb'_and] at hmask ⊢
  rw [hmask, BitVec.and_allOnes]

theorem eq_pattern_of_match (hmatch : w &&& i.mask = i.pattern) (hmask : i.mask = BitVec.allOnes 16) :
    w = i.pattern := by
  rw [← hmatch, hmask, BitVec.and_allOnes]

/-- The decoder reads the word as an instruction of the row of the opcode map that `i` stands in. -/
def DecodesToRow (w : Word) (i : Instr) : Prop :=
  ∃ j, decode w = .instr j ∧ j.mask = i.mask ∧ j.pattern = i.pattern

/-- The decoder dispatches on the bits the row fixes, so its answer stands in the same row. -/
theorem decodesToRow_of_match (hmatch : w &&& i.mask = i.pattern) (hcls : w ≠ 0x00E0#16) (hret : w ≠ 0x00EE#16) :
    DecodesToRow w i := by
  have hfamily := opFamily_of_match hmatch
  cases i with
  | cls => exact absurd (eq_pattern_of_match hmatch rfl) hcls
  | ret => exact absurd (eq_pattern_of_match hmatch rfl) hret
  | sys => simp [DecodesToRow, decode, decodeFamily0, hfamily, hcls, hret, Instr.mask, Instr.pattern]
  | jp | call | ldINnn | jpV0Nnn | seVxKk | sneVxKk | ldVxKk | addVxKk | rndVxKk | drw =>
    simp [DecodesToRow, decode, hfamily, Instr.mask, Instr.pattern]
  | seVxVy | sneVxVy =>
    have hn := mod_16_of_match hmatch (by simp [Instr.mask])
    simp [DecodesToRow, decode, hfamily, opN_eq_iff, hn, Instr.mask, Instr.pattern]
  | ldVxVy | orVxVy | andVxVy | xorVxVy | addVxVy | subVxVy | shrVx | subnVxVy | shlVx =>
    have hn := mod_16_of_match hmatch (by simp [Instr.mask])
    simp [DecodesToRow, decode, decodeFamily8, hfamily, opN_eq_iff, hn, Instr.mask, Instr.pattern]
  | skpVx | sknpVx =>
    have hkk := mod_256_of_match hmatch (by simp [Instr.mask])
    simp [DecodesToRow, decode, decodeFamilyE, hfamily, opKk_eq_iff, hkk, Instr.mask, Instr.pattern]
  | ldVxDt | ldVxK | ldDtVx | ldStVx | addIVx | ldFVx | ldBVx | ldMemVx | ldVxMem =>
    have hkk := mod_256_of_match hmatch (by simp [Instr.mask])
    simp [DecodesToRow, decode, decodeFamilyF, hfamily, opKk_eq_iff, hkk, Instr.mask, Instr.pattern]

end

/-- Settles O4: a decoded word is its instruction's encoding, which has the row's fixed bits; a word with a row's fixed
bits is dispatched on them. -/
theorem opcodeMapAgrees : Obligations.OpcodeMapAgrees := by
  unfold Obligations.OpcodeMapAgrees
  refine ⟨fun w i hdecode => encode_of_decode hdecode ▸ encode_and_mask i, fun w i hmatch => ?_⟩
  by_cases hcls : w = 0x00E0#16
  · exact .inl hcls
  by_cases hret : w = 0x00EE#16
  · exact .inr (.inl hret)
  exact .inr (.inr (decodesToRow_of_match hmatch hcls hret))

/-- Settles O5: the decoder computes on each of the written-out words. -/
theorem sampleWordsDecode : Obligations.SampleWordsDecode := by
  unfold Obligations.SampleWordsDecode
  decide

end Sys2Proof
end

section
/-! PROOFS. The execution cycle (`40_execution_cycle.md`): what each transition answers, and how the fused step follows
the transitions. -/

namespace Sys2Proof.Machine

/-! ### The step by run state -/

section
variable {s : State}

theorem step_of_fetch (h : s.runState = .fetch) : step s = afterFetch (fetchStep s) := by
  simp only [step, cycle, h]

theorem step_of_decode (h : s.runState = .decode) : step s = afterDecode (decodeStep s) := by
  simp only [step, cycle, h]

theorem step_of_execute (h : s.runState = .execute) : step s = executeStep s := by
  simp only [step, cycle, h]

theorem step_of_waitKey (h : s.runState = .waitKey) : step s = runBuffered s := by
  simp only [step, cycle, h]

theorem afterFetch_of_decode (h : s.runState = .decode) : afterFetch s = afterDecode (decodeStep s) := by
  simp only [afterFetch, h]

theorem afterFetch_of_ne (h : s.runState ≠ .decode) : afterFetch s = .next s := by
  unfold afterFetch
  split
  case h_1 heq => exact absurd heq h
  all_goals rfl

theorem afterDecode_of_execute (h : s.runState = .execute) : afterDecode s = executeStep s := by
  simp only [afterDecode, h]

theorem afterDecode_of_ne (h : s.runState ≠ .execute) : afterDecode s = .next s := by
  unfold afterDecode
  split
  case h_1 heq => exact absurd heq h
  all_goals rfl

theorem runBuffered_of_some {i : Instr} (h : s.ibInstr = some i) : runBuffered s = exec i s := by
  simp only [runBuffered, h]

theorem runBuffered_of_none (h : s.ibInstr = none) : runBuffered s = .fault .emptyBuffer := by
  simp only [runBuffered, h]

theorem decodeStep_illegal (h : decode s.ibOp = .illegal) : decodeStep s = Faulted s .illegalOpcode .nothing := by
  simp only [decodeStep, h, State.raise_eq_Faulted]

/-! ### The front end's turn -/

/-- The turn before a key skip touches the key flags and the queue alone (R244). -/
theorem State.hostTurn_eq (s : State) :
    ∃ keys queue, State.hostTurn s = { s with keys := keys, hostQueue := queue } := by
  unfold State.hostTurn
  split
  · split
    · exact ⟨_, _, rfl⟩
    all_goals exact ⟨s.keys, s.hostQueue, rfl⟩
  · exact ⟨s.keys, s.hostQueue, rfl⟩

theorem State.hostTurn_of_updateKeys {b : Vector Bool 16} {rest : List HostAction}
    (heffect : s.effect = .needsKeyState) (hqueue : s.hostQueue = .updateKeys b :: rest) :
    State.hostTurn s = { s with keys := b, hostQueue := rest } := by
  simp only [State.hostTurn, heffect, hqueue, if_true, State.updateKeys]

theorem State.hostTurn_of_no_update (h : ∀ b rest, s.hostQueue ≠ .updateKeys b :: rest) : State.hostTurn s = s := by
  unfold State.hostTurn
  split
  · split
    · next hqueue => exact absurd hqueue (h _ _)
    all_goals rfl
  · rfl

@[simp] theorem State.hostTurn_ibInstr (s : State) : (State.hostTurn s).ibInstr = s.ibInstr := by
  obtain ⟨_, _, h⟩ := State.hostTurn_eq s
  rw [h]

theorem executeStep_of_some {i : Instr} (h : s.ibInstr = some i) : executeStep s = exec i (State.hostTurn s) :=
  runBuffered_of_some ((State.hostTurn_ibInstr s).trans h)

/-! ### Fetching a legal word -/

theorem fetchStep_ibOp (h : fetchable s.pc = true) : (fetchStep s).ibOp = fetchWord s.mem s.pc := by
  rw [fetchStep_ok s h, State.timerTick_ibOp]

theorem fetchStep_ibPc (h : fetchable s.pc = true) : (fetchStep s).ibPc = s.pc := by
  rw [fetchStep_ok s h, State.timerTick_ibPc]

theorem fetchStep_runState (h : fetchable s.pc = true) : (fetchStep s).runState = .decode := by
  rw [fetchStep_ok s h, State.timerTick_runState]

/-- A step in FETCH at a good `pc` goes on with the DECODE step of the fetched state. -/
theorem step_of_fetchable (hfetch : s.runState = .fetch) (hpc : fetchable s.pc = true) :
    step s = afterDecode (decodeStep (fetchStep s)) :=
  (step_of_fetch hfetch).trans (afterFetch_of_decode (fetchStep_runState hpc))

/-- It goes on with the instruction in the buffer where the fetched word is one. -/
theorem step_of_fetched_instr {i : Instr} (hfetch : s.runState = .fetch) (hpc : fetchable s.pc = true)
    (hdecode : decode (fetchWord s.mem s.pc) = .instr i) :
    step s = afterDecode (State.buffer (fetchStep s) i) := by
  rw [step_of_fetchable hfetch hpc, decodeStep_instr _ ((fetchStep_ibOp hpc).symm ▸ hdecode)]

theorem State.buffer_runState_of_ne {i : Instr} (h : i.sideEffect ≠ .blocksOnKey) :
    (State.buffer s i).runState = .execute :=
  (State.buffer_runState s i).trans (if_neg h)

theorem afterDecode_buffer {i : Instr} (h : i.sideEffect ≠ .blocksOnKey) :
    afterDecode (State.buffer s i) = exec i (State.hostTurn (State.buffer s i)) := by
  rw [afterDecode_of_execute (State.buffer_runState_of_ne h), executeStep_of_some (State.buffer_ibInstr s i)]

theorem afterDecode_buffer_ldVxK (s : State) (x : Nibble) :
    afterDecode (State.buffer s (.ldVxK x)) = .next (State.buffer s (.ldVxK x)) :=
  afterDecode_of_ne (by nofun)

end

/-! ### The timers -/

/-- A timer that is due falls by one and stops at 0 (R125). -/
theorem toNat_countDown_true (t : Byte) : (countDown true t).toNat = t.toNat - 1 := by
  unfold countDown
  split
  · next hzero => rw [hzero]; rfl
  · next hne => rw [if_pos rfl]; bv_omega

@[simp] theorem countDown_false (t : Byte) : countDown false t = t := ite_self t

/-- Settles O7: the fetch's tick is due exactly at the cadence. -/
theorem fetchTicksTimers : Obligations.FetchTicksTimers := by
  unfold Obligations.FetchTicksTimers
  intro s hpc
  rw [fetchStep_ok s hpc]
  constructor
  · intro hdue
    simp [State.timerTick, State.tickDue, hdue, toNat_countDown_true]
  · intro hnot
    simp [State.timerTick, State.tickDue, hnot]

/-! ### Faults of a fetch and of a decode -/

theorem fetchable_eq_false_of_bad {pc : Word} (h : pc.toNat % 2 = 1 ∨ pc.toNat < 0x200 ∨ 0xFFFE < pc.toNat) :
    fetchable pc = false := by
  rw [Bool.eq_false_iff, Ne, fetchable_iff]
  omega

/-- Settles O8: the FETCH step enters the fault, after which the step is over. -/
theorem badFetchFaults : Obligations.BadFetchFaults := by
  unfold Obligations.BadFetchFaults
  intro s hfetch hbad
  rw [step_of_fetch hfetch, fetchStep_bad s (fetchable_eq_false_of_bad hbad)]
  exact afterFetch_of_ne (by nofun)

/-- Settles O9: the decode step raises the fault, after which the step is over. -/
theorem illegalWordFaults : Obligations.IllegalWordFaults := by
  unfold Obligations.IllegalWordFaults
  constructor
  · intro s hdecode hillegal
    rw [step_of_decode hdecode, decodeStep_illegal hillegal]
    exact afterDecode_of_ne (by nofun)
  · intro s hfetch hpc hillegal
    rw [step_of_fetchable hfetch hpc, decodeStep_illegal ((fetchStep_ibOp hpc).symm ▸ hillegal),
      afterDecode_of_ne (by nofun)]
    simp only [Faulted, fetchStep_ibPc hpc, fetchStep_ibOp hpc]

/-! ### The effect output -/

/-- The forms outside the six of R92's list have the class None. -/
theorem sideEffect_eq_noEffect {i : Instr} (hcls : i ≠ .cls) (hdrw : ∀ x y n, i ≠ .drw x y n)
    (hothers : ∀ x, i ≠ .skpVx x ∧ i ≠ .sknpVx x ∧ i ≠ .ldVxK x ∧ i ≠ .ldStVx x) : i.sideEffect = .noEffect := by
  cases i with
  | cls => exact absurd rfl hcls
  | drw x y n => exact absurd rfl (hdrw x y n)
  | skpVx x | sknpVx x | ldVxK x | ldStVx x => simpa using hothers x
  | _ => rfl

/-- Only the key wait blocks on a key (R92). -/
theorem sideEffect_eq_blocksOnKey_iff (i : Instr) : i.sideEffect = .blocksOnKey ↔ ∃ x, i = .ldVxK x := by
  cases i <;> simp [Instr.sideEffect]

/-- Settles O10: the decode step of a legal word buffers the instruction, with its class as the effect. -/
theorem decodeSetsEffectClass : Obligations.DecodeSetsEffectClass := by
  unfold Obligations.DecodeSetsEffectClass
  intro s i hdecode
  rw [decodeStep_instr s hdecode, State.buffer_effect]
  refine ⟨?redraw, ?keyState, ?blocks, ?sound, sideEffect_eq_noEffect, ?others⟩
  case redraw => rintro (rfl | ⟨x, y, n, rfl⟩) <;> rfl
  case keyState => rintro ⟨x, rfl | rfl⟩ <;> rfl
  case blocks => rintro ⟨x, rfl⟩; exact ⟨rfl, rfl⟩
  case sound => rintro ⟨x, rfl⟩; rfl
  case others =>
    intro hothers
    refine State.buffer_runState_of_ne fun hblocks => ?_
    obtain ⟨x, rfl⟩ := (sideEffect_eq_blocksOnKey_iff i).mp hblocks
    exact hothers x rfl

/-! ### The instruction a step runs -/

/-- Settles O11: the decoded instruction is buffered and executed, but for the key wait, which ends the step. -/
theorem stepRunsDecodedInstruction : Obligations.StepRunsDecodedInstruction := by
  unfold Obligations.StepRunsDecodedInstruction
  refine ⟨fun s i hfetch hpc hdecode hblocks => ?runs, fun s x hfetch hpc hdecode => ?waits,
    fun s i hwait hbuffered => (step_of_waitKey hwait).trans (runBuffered_of_some hbuffered)⟩
  case runs => exact (step_of_fetched_instr hfetch hpc hdecode).trans (afterDecode_buffer hblocks)
  case waits => exact ⟨(step_of_fetched_instr hfetch hpc hdecode).trans (afterDecode_buffer_ldVxK _ x), rfl, rfl⟩

theorem State.withFetchWord_toNat (s : State) (w : Word) : State.withFetchWord s 16 w.toNat = State.placeWord s w := by
  rw [State.withFetchWord, Nat.mod_eq_of_lt w.isLt, BitVec.ofNat_toNat, BitVec.setWidth_eq]

theorem decodeTableWord_toNat (w : Word) : decodeTableWord 16 w.toNat = (decode w).toOption := by
  rw [decodeTableWord, Nat.mod_eq_of_lt w.isLt, BitVec.ofNat_toNat, BitVec.setWidth_eq, bytesOfWord, decodeBytes,
    wordOfBytes_bytesOfWord]

/-- Settles O12: the placed word is the one fetched, and the turn of the front end keeps the buffer, `pc`, the registers
and the stack. -/
theorem stepRunsPlacedWord : Obligations.StepRunsPlacedWord := by
  unfold Obligations.StepRunsPlacedWord
  intro s w i hwf hdecode hblocks
  rw [decodeTableWord_toNat, hdecode, State.withFetchWord_toNat]
  have hword : fetchWord (State.placeWord s w).mem (State.placeWord s w).pc = w := fetchWord_placeWord s w hwf
  have hpc : fetchable (State.placeWord s w).pc = true := fetchable_fetchAddr s
  refine ⟨rfl, _, (step_of_fetched_instr rfl hpc (hword.symm ▸ hdecode)).trans (afterDecode_buffer hblocks), ?_⟩
  obtain ⟨keys, queue, hturn⟩ := State.hostTurn_eq (State.buffer (fetchStep (State.placeWord s w)) i)
  rw [hturn, fetchStep_ok _ hpc]
  exact ⟨rfl, hword, rfl, rfl, rfl, rfl⟩

/-! ### The fused step and the transitions -/

/-- However an instruction ends, it ends in a next state, and not in DECODE or EXECUTE. -/
theorem Ending.exists_next {s : State} {r : Result} (h : Ending s r) :
    ∃ t, r = .next t ∧ t.runState ≠ .decode ∧ t.runState ≠ .execute := by
  cases h with
  | completed h | waiting h | cancelled h => exact ⟨_, rfl, by rw [h]; nofun, by rw [h]; nofun⟩
  | faulted kind info => exact ⟨_, rfl, by nofun, by nofun⟩

/-- Settles O49: by the ways an instruction can end. -/
theorem everyInstructionAnswersNext : Obligations.EveryInstructionAnswersNext := by
  unfold Obligations.EveryInstructionAnswersNext
  exact fun i s => (exec_ending i s).exists_next

/-- Outcomes after which no transition of the same instruction is left: the next state, if there is one, is neither
DECODE nor EXECUTE. -/
def Settled (r : Result) : Prop := ∀ t, r = .next t → t.runState ≠ .decode ∧ t.runState ≠ .execute

theorem settled_exec (i : Instr) (s : State) : Settled (exec i s) := by
  intro t hnext
  obtain ⟨u, hu, hrun⟩ := everyInstructionAnswersNext i s
  cases hu.symm.trans hnext
  exact hrun

theorem settled_fault (f : Fault) : Settled (.fault f) := by
  rintro _ ⟨⟩

theorem settled_runBuffered (s : State) : Settled (runBuffered s) := by
  cases h : s.ibInstr with
  | none => rw [runBuffered_of_none h]; exact settled_fault _
  | some i => rw [runBuffered_of_some h]; exact settled_exec i s

theorem settled_next {t : State} (hdecode : t.runState ≠ .decode) (hexecute : t.runState ≠ .execute) :
    Settled (.next t) := by
  rintro _ ⟨⟩
  exact ⟨hdecode, hexecute⟩

theorem settle_of_settled {r : Result} (h : Settled r) (n : Nat) : settle n r = r := by
  cases n with
  | zero => rfl
  | succ n =>
    cases r with
    | next t => exact if_neg (not_or.mpr (h t rfl))
    | fault f => rfl
    | refused r => rfl

theorem settle_succ_next {t : State} (h : t.runState = .decode ∨ t.runState = .execute) (n : Nat) :
    settle (n + 1) (.next t) = settle n (transition t) := if_pos h

section
variable {s : State}

theorem transition_of_decode (h : s.runState = .decode) : transition s = .next (decodeStep s) := by
  simp only [transition, h]

theorem transition_of_execute (h : s.runState = .execute) : transition s = executeStep s := by
  simp only [transition, h]

theorem transition_of_waitKey (h : s.runState = .waitKey) : transition s = runBuffered s := by
  simp only [transition, h]

theorem decodeStep_ne_decode (s : State) : (decodeStep s).runState ≠ .decode := by
  cases hdecode : decode s.ibOp with
  | instr i =>
    rw [decodeStep_instr s hdecode, State.buffer_runState]
    split <;> nofun
  | illegal | truncated =>
    simp only [decodeStep, hdecode, State.raise_eq_Faulted]
    nofun

/-- The FETCH step ends in DECODE, or in FAULTED on a bad `pc`. -/
theorem fetchStep_runState_cases (s : State) :
    (fetchStep s).runState = .decode ∨ (fetchStep s).runState = .faulted := by
  cases hpc : fetchable s.pc with
  | true => exact .inl (fetchStep_runState hpc)
  | false => exact .inr (congrArg State.runState (fetchStep_bad s hpc))

/-- From a state that is past DECODE the transitions followed are EXECUTE's, if the state is there. -/
theorem settle_succ_of_ne_decode (h : s.runState ≠ .decode) (n : Nat) :
    settle (n + 1) (.next s) = afterDecode s := by
  by_cases hexecute : s.runState = .execute
  · rw [settle_succ_next (.inr hexecute), transition_of_execute hexecute, afterDecode_of_execute hexecute]
    exact settle_of_settled (settled_runBuffered _) n
  · rw [settle_of_settled (settled_next h hexecute), afterDecode_of_ne hexecute]

theorem settle_two_fetchStep (s : State) : settle 2 (.next (fetchStep s)) = afterFetch (fetchStep s) := by
  obtain hdecode | hfaulted := fetchStep_runState_cases s
  · rw [settle_succ_next (.inl hdecode), transition_of_decode hdecode, afterFetch_of_decode hdecode]
    exact settle_succ_of_ne_decode (decodeStep_ne_decode _) 0
  · rw [settle_succ_of_ne_decode (by rw [hfaulted]; nofun), afterDecode_of_ne (by rw [hfaulted]; nofun),
      afterFetch_of_ne (by rw [hfaulted]; nofun)]

theorem settled_afterDecode (h : s.runState ≠ .decode) : Settled (afterDecode s) := by
  by_cases hexecute : s.runState = .execute
  · rw [afterDecode_of_execute hexecute]; exact settled_runBuffered _
  · rw [afterDecode_of_ne hexecute]; exact settled_next h hexecute

theorem settled_afterFetch_fetchStep (s : State) : Settled (afterFetch (fetchStep s)) := by
  obtain hdecode | hfaulted := fetchStep_runState_cases s
  · rw [afterFetch_of_decode hdecode]; exact settled_afterDecode (decodeStep_ne_decode _)
  · rw [afterFetch_of_ne (by rw [hfaulted]; nofun)]
    exact settled_next (by rw [hfaulted]; nofun) (by rw [hfaulted]; nofun)

theorem settled_step (s : State) : Settled (step s) := by
  cases h : s.runState with
  | fetch => rw [step_of_fetch h]; exact settled_afterFetch_fetchStep s
  | decode => rw [step_of_decode h]; exact settled_afterDecode (decodeStep_ne_decode _)
  | execute => rw [step_of_execute h]; exact settled_runBuffered _
  | waitKey => rw [step_of_waitKey h]; exact settled_runBuffered s
  | faulted => rw [step_of_faulted h]; exact settled_fault _
  | halted => rw [step_of_halted h]; exact settled_fault _

theorem step_eq_settle (s : State) : step s = settle 2 (transition s) := by
  cases h : s.runState with
  | fetch => exact (step_of_fetch h).trans ((settle_two_fetchStep s).symm.trans (by simp only [transition, h]))
  | decode =>
    rw [step_of_decode h, transition_of_decode h, settle_succ_of_ne_decode (decodeStep_ne_decode _)]
  | execute => rw [step_of_execute h, transition_of_execute h]; exact (settle_of_settled (settled_runBuffered _) 2).symm
  | waitKey =>
    rw [step_of_waitKey h, transition_of_waitKey h]
    exact (settle_of_settled (settled_runBuffered s) 2).symm
  | faulted => simp only [step_of_faulted h, transition, h, settle]
  | halted => simp only [step_of_halted h, transition, h, settle]

end

/-- Settles O14: in each run state the step's fused transitions are those `settle` follows, and each path ends
settled. -/
theorem stepIsTransitions : Obligations.StepIsTransitions := by
  unfold Obligations.StepIsTransitions
  exact fun s => ⟨step_eq_settle s, settled_step s⟩

end Sys2Proof.Machine
end

section
/-! PROOFS. Frames of the updates of the timers, the key state, the queue and the draw count. -/

namespace Sys2Proof.Machine

variable {s t : State} {w : Part → Prop}

theorem Unchanged.setDt (h : Unchanged s t w) (hdt : w .delayTimer) {b : Byte} : Unchanged s { t with dt := b } w := by
  intro p hp
  have hsame := h p hp
  cases p with
  | delayTimer => exact absurd hdt hp
  | _ => exact hsame

theorem Unchanged.setSt (h : Unchanged s t w) (hst : w .soundTimer) {b : Byte} : Unchanged s { t with st := b } w := by
  intro p hp
  have hsame := h p hp
  cases p with
  | soundTimer => exact absurd hst hp
  | _ => exact hsame

theorem Unchanged.setKeys (h : Unchanged s t w) (hkeys : w .keys) {b : Vector Bool 16} :
    Unchanged s { t with keys := b } w := by
  intro p hp
  have hsame := h p hp
  cases p with
  | keys => exact absurd hkeys hp
  | _ => exact hsame

theorem Unchanged.setPressedKey (h : Unchanged s t w) (hkey : w .pressedKey) {k : BitVec 5} :
    Unchanged s { t with pressedKey := k } w := by
  intro p hp
  have hsame := h p hp
  cases p with
  | pressedKey => exact absurd hkey hp
  | _ => exact hsame

theorem Unchanged.setHostQueue (h : Unchanged s t w) (hqueue : w .hostQueue) {q : List HostAction} :
    Unchanged s { t with hostQueue := q } w := by
  intro p hp
  have hsame := h p hp
  cases p with
  | hostQueue => exact absurd hqueue hp
  | _ => exact hsame

theorem Unchanged.setDraws (h : Unchanged s t w) (hdraws : w .draws) {n : Nat} :
    Unchanged s { t with draws := n } w := by
  intro p hp
  have hsame := h p hp
  cases p with
  | draws => exact absurd hdraws hp
  | _ => exact hsame

/-- The run state is no part. -/
theorem Unchanged.setRunState (h : Unchanged s t w) {r : RunState} : Unchanged s { t with runState := r } w := by
  intro p hp
  have hsame := h p hp
  cases p <;> exact hsame

theorem Unchanged.deliverKey (h : Unchanged s t w) {x : Nibble} (hx : w (.reg x)) (hkey : w .pressedKey) (k : Nibble) :
    Unchanged s (State.deliverKey t x k) w :=
  ((h.setPressedKey hkey (k := k.setWidth 5)).setReg hx (b := k.setWidth 8)).setRunState (r := .fetch)

theorem Unchanged.cancelWait (h : Unchanged s t w) (hkey : w .pressedKey) : Unchanged s (State.cancelWait t) w :=
  (h.setPressedKey hkey (k := Config.noKey)).setRunState (r := .halted)

end Sys2Proof.Machine
end

section
/-! PROOFS. The keypad (`44_keypad.md`, `60_exceptions.md` section 4): the key wait and the front end's actions. -/

namespace Sys2Proof.Machine

/-! ### The refresh before a key skip -/

/-- Settles O33: the turn of the front end comes before `exec`, and takes a queued update or nothing. -/
theorem keyFlagsRefreshedBeforeSkip : Obligations.KeyFlagsRefreshedBeforeSkip := by
  unfold Obligations.KeyFlagsRefreshedBeforeSkip
  intro s i hexecute hbuffered heffect
  rw [step_of_execute hexecute, executeStep_of_some hbuffered]
  exact ⟨fun b rest hqueue => by rw [State.hostTurn_of_updateKeys heffect hqueue],
    fun hnone => by rw [State.hostTurn_of_no_update hnone]⟩

/-! ### Actions between steps -/

section
variable {s : State}

theorem State.acceptsHost_of_ne (hfaulted : s.runState ≠ .faulted) (hhalted : s.runState ≠ .halted) :
    State.acceptsHost s = true := by
  simp [State.acceptsHost, hfaulted, hhalted]

theorem State.acceptsHost_of_waitKey (h : s.runState = .waitKey) : State.acceptsHost s = true :=
  State.acceptsHost_of_ne (by rw [h]; nofun) (by rw [h]; nofun)

theorem State.hostAct_updateKeys (h : State.acceptsHost s = true) (b : Vector Bool 16) :
    State.hostAct s (.updateKeys b) = State.updateKeys s b := if_pos h

theorem State.hostAct_resolveKey (h : State.acceptsHost s = true) (k : Nibble) :
    State.hostAct s (.resolveKey k) = State.resolveKey s k := if_pos h

theorem State.resolveKey_of_ldVxK {x : Nibble} (hwait : s.runState = .waitKey)
    (hbuffered : s.ibInstr = some (.ldVxK x)) (k : Nibble) : State.resolveKey s k = State.deliverKey s x k := by
  simp only [State.resolveKey, hwait, hbuffered]

theorem State.resolveKey_of_ne (h : s.runState ≠ .waitKey) (k : Nibble) : State.resolveKey s k = s := by
  unfold State.resolveKey
  split
  · next hwait _ => exact absurd hwait h
  · rfl

theorem State.hostAct_cancelWait_of_waitKey (h : s.runState = .waitKey) :
    State.hostAct s .cancelWait = State.cancelWait s :=
  (if_pos (State.acceptsHost_of_waitKey h)).trans (if_pos h)

theorem State.hostAct_cancelWait_of_ne (h : s.runState ≠ .waitKey) : State.hostAct s .cancelWait = s := by
  cases haccepts : State.acceptsHost s with
  | false => exact State.hostAct_of_not_acceptsHost haccepts _
  | true => exact (if_pos haccepts).trans (if_neg h)

end

/-- Settles O34: an action is performed as its own update, or ignored. -/
theorem hostActionsBetweenSteps : Obligations.HostActionsBetweenSteps := by
  unfold Obligations.HostActionsBetweenSteps
  intro s hfaulted hhalted
  have haccepts := State.acceptsHost_of_ne hfaulted hhalted
  refine ⟨fun b => ?update, fun hwait => ⟨fun k => ?resolve, State.hostAct_cancelWait_of_ne hwait⟩⟩
  case update =>
    rw [State.hostAct_updateKeys haccepts]
    exact ⟨State.updateKeys_keys s b, State.updateKeys_runState s b, (Unchanged.refl s fun p => p = .keys).setKeys rfl⟩
  case resolve => exact (State.hostAct_resolveKey haccepts k).trans (State.resolveKey_of_ne hwait k)

/-! ### The key wait -/

/-- A delivered key ends the wait in FETCH, stands in `V[x]` and in `pressed_key`, and no other part is written
(R192). -/
theorem deliverKey_spec (s : State) (x k : Nibble) :
    (State.deliverKey s x k).runState = .fetch ∧ (State.reg (State.deliverKey s x k) x).toNat = k.toNat ∧
      (State.deliverKey s x k).pressedKey.toNat = k.toNat ∧
      Unchanged s (State.deliverKey s x k) fun p => p = .reg x ∨ p = .pressedKey := by
  have hreg : State.reg (State.deliverKey s x k) x = k.setWidth 8 := State.reg_setReg_same _ x _
  refine ⟨rfl, ?_, BitVec.toNat_setWidth_of_le (by decide), ?_⟩
  · rw [hreg]
    exact BitVec.toNat_setWidth_of_le (by decide)
  · exact (Unchanged.refl s _).deliverKey (.inl rfl) (.inr rfl) k

theorem cancelWait_spec (s : State) :
    (State.cancelWait s).runState = .halted ∧ (State.cancelWait s).pressedKey.toNat = 16 ∧
      Unchanged s (State.cancelWait s) fun p => p = .pressedKey :=
  ⟨rfl, rfl, (Unchanged.refl s fun p => p = .pressedKey).cancelWait rfl⟩

theorem exec_ldVxK_of_nil {s : State} (h : s.hostQueue = []) (x : Nibble) :
    exec (.ldVxK x) s = .next { s with runState := .waitKey } := by
  simp only [exec, execLdVxK, h]

theorem exec_ldVxK_of_updateKeys {s : State} {b : Vector Bool 16} {rest : List HostAction}
    (h : s.hostQueue = .updateKeys b :: rest) (x : Nibble) :
    exec (.ldVxK x) s = .next { State.updateKeys s b with runState := .waitKey, hostQueue := rest } := by
  simp only [exec, execLdVxK, h]

theorem exec_ldVxK_of_resolveKey {s : State} {k : Nibble} {rest : List HostAction}
    (h : s.hostQueue = .resolveKey k :: rest) (x : Nibble) :
    exec (.ldVxK x) s = .next (State.deliverKey { s with hostQueue := rest } x k) := by
  simp only [exec, execLdVxK, h]

theorem exec_ldVxK_of_cancelWait {s : State} {rest : List HostAction} (h : s.hostQueue = .cancelWait :: rest)
    (x : Nibble) : exec (.ldVxK x) s = .next (State.cancelWait { s with hostQueue := rest }) := by
  simp only [exec, execLdVxK, h]

/-- Settles O35: each action in WAIT_KEY is its own update, and with an empty queue the step is the state itself. -/
theorem keyWaitIsLeftByFrontEnd : Obligations.KeyWaitIsLeftByFrontEnd := by
  unfold Obligations.KeyWaitIsLeftByFrontEnd
  intro s x k hwait hbuffered
  have haccepts := State.acceptsHost_of_waitKey hwait
  refine ⟨?resolve, ?cancel, fun b => ?update, fun hqueue => ?idle⟩
  case resolve =>
    rw [State.hostAct_resolveKey haccepts, State.resolveKey_of_ldVxK hwait hbuffered]
    exact deliverKey_spec s x k
  case cancel =>
    rw [State.hostAct_cancelWait_of_waitKey hwait]
    exact cancelWait_spec s
  case update =>
    rw [State.hostAct_updateKeys haccepts]
    exact ⟨hwait, (Unchanged.refl s fun p => p = .keys).setKeys rfl⟩
  case idle =>
    rw [step_of_waitKey hwait, runBuffered_of_some hbuffered, exec_ldVxK_of_nil hqueue, ← hwait]

/-- Settles O36: the head of the queue decides how the wait goes on. -/
theorem keyWaitTakesQueuedAnswer : Obligations.KeyWaitTakesQueuedAnswer := by
  unfold Obligations.KeyWaitTakesQueuedAnswer
  intro s x rest
  refine ⟨fun k hqueue => ?resolve, fun hqueue => ?cancel, fun b hqueue => ?update, fun hqueue => ?idle⟩
  case resolve =>
    obtain ⟨hfetch, hreg, hkey, -⟩ := deliverKey_spec { s with hostQueue := rest } x k
    refine ⟨_, exec_ldVxK_of_resolveKey hqueue x, hfetch, hreg, hkey, rfl, ?_⟩
    exact ((Unchanged.refl s _).setHostQueue (.inr (.inr rfl))).deliverKey (.inl rfl) (.inr (.inl rfl)) k
  case cancel =>
    obtain ⟨hhalted, hkey, -⟩ := cancelWait_spec { s with hostQueue := rest }
    refine ⟨_, exec_ldVxK_of_cancelWait hqueue x, hhalted, hkey, rfl, ?_⟩
    exact ((Unchanged.refl s _).setHostQueue (.inr rfl)).cancelWait (.inl rfl)
  case update =>
    refine ⟨_, exec_ldVxK_of_updateKeys hqueue x, rfl, rfl, rfl, ?_⟩
    exact ((Unchanged.refl s _).setKeys (b := b) (.inl rfl)).setHostQueue (q := rest) (.inr rfl) |>.setRunState
  case idle => exact ⟨_, exec_ldVxK_of_nil hqueue x, rfl, (Unchanged.refl s _).setRunState⟩

end Sys2Proof.Machine
end

section
/-! PROOFS. Control transfer (`41_control_flow.md`): the compares, and `RET` after `CALL`. -/

namespace Sys2Proof.Machine

theorem exec_seVxKk (x : Nibble) (kk : Byte) (s : State) :
    exec (.seVxKk x kk) s = completes (State.skipIf s (decide (State.reg s x = kk))) := rfl

theorem exec_sneVxKk (x : Nibble) (kk : Byte) (s : State) :
    exec (.sneVxKk x kk) s = completes (State.skipIf s (decide (State.reg s x ≠ kk))) := rfl

theorem exec_seVxVy (x y : Nibble) (s : State) :
    exec (.seVxVy x y) s = completes (State.skipIf s (decide (State.reg s x = State.reg s y))) := rfl

theorem exec_sneVxVy (x y : Nibble) (s : State) :
    exec (.sneVxVy x y) s = completes (State.skipIf s (decide (State.reg s x ≠ State.reg s y))) := rfl

section
variable (s : State) (a b : Byte)

/-- A skip on equality, as the numbers of the two bytes say it. -/
theorem completes_skipIf_eq :
    ∃ t, completes (State.skipIf s (decide (a = b))) = .next t ∧ t.runState = .fetch ∧
      Unchanged s t (fun p => p = .pc) ∧ t.pc.toNat = (s.pc.toNat + if a.toNat = b.toNat then 2 else 0) % 65536 := by
  simpa only [decide_eq_true_eq, BitVec.toNat_inj] using completes_skipIf s (decide (a = b))

/-- A skip on inequality. -/
theorem completes_skipIf_ne :
    ∃ t, completes (State.skipIf s (decide (a ≠ b))) = .next t ∧ t.runState = .fetch ∧
      Unchanged s t (fun p => p = .pc) ∧ t.pc.toNat = (s.pc.toNat + if a.toNat = b.toNat then 0 else 2) % 65536 := by
  simpa only [decide_eq_true_eq, BitVec.toNat_inj, ne_eq, ite_not] using completes_skipIf s (decide (a ≠ b))

end

/-- Settles O20: each form is a skip on its comparison. -/
theorem skipsCompare : Obligations.SkipsCompare := by
  unfold Obligations.SkipsCompare
  intro s x y kk
  rw [exec_seVxKk, exec_sneVxKk, exec_seVxVy, exec_sneVxVy]
  exact ⟨completes_skipIf_eq s _ kk, completes_skipIf_ne s _ kk, completes_skipIf_eq s _ _, completes_skipIf_ne s _ _⟩

/-- Settles O19: a `CALL` that ends in FETCH had room and pushed its `pc`, so a `RET` on that stack pops it. -/
theorem retUndoesCall : Obligations.RetUndoesCall := by
  unfold Obligations.RetUndoesCall
  intro s t u nnn hcall hfetch hstack
  obtain hroom | hfull := Nat.lt_or_ge s.stack.length 16
  · cases (exec_call_of_room hroom nnn).symm.trans hcall
    exact ⟨_, exec_ret_of_cons hstack, rfl, rfl, rfl⟩
  · cases (exec_call_of_full hfull nnn).symm.trans hcall
    cases hfetch

end Sys2Proof.Machine
end

section
/-! PROOFS. Register arithmetic and logic (`42_alu.md`): the copy, the forms that write a flag, and `RND`; and the
timers (`46_timers.md`). -/

namespace Sys2Proof.Machine

theorem exec_ldVxVy (x y : Nibble) (s : State) :
    exec (.ldVxVy x y) s = completes (State.setReg s x (State.reg s y)) := rfl

/-- Settles O22: the copy writes `V[x]` alone. -/
theorem registerCopy : Obligations.RegisterCopy := by
  unfold Obligations.RegisterCopy
  intro s x y
  exact exec_ldVxVy x y s ▸ completes_setReg s x (State.reg s y)

/-! ### Results with a flag -/

/-- A flag is 1 or 0 (R172). -/
theorem toNat_flagByte (c : Bool) : (flagByte c).toNat = if c = true then 1 else 0 := by
  cases c <;> rfl

theorem Unchanged.writeWithFlag {s t : State} {w : Part → Prop} {x : Nibble} (h : Unchanged s t w) (hx : w (.reg x))
    (hflag : w (.reg 0xF#4)) {result flag : Byte} : Unchanged s (State.writeWithFlag t x result flag) w :=
  (h.setReg hx).setReg hflag

/-- Completing with a result and a flag: `V[x]` holds the result unless x is 15, VF holds the flag, the next state is
FETCH, and nothing else moves (R127, R173). -/
theorem completes_writeWithFlag (s : State) (x : Nibble) {result flag : Byte} {resultNumber flagNumber : Nat}
    (hresult : result.toNat = resultNumber) (hflag : flag.toNat = flagNumber) :
    ∃ t, completes (State.writeWithFlag s x result flag) = .next t ∧ t.runState = .fetch ∧
      (x ≠ 0xF#4 → (State.reg t x).toNat = resultNumber) ∧ (State.reg t 0xF#4).toNat = flagNumber ∧
      Unchanged s t fun p => p = .reg x ∨ p = .reg 0xF#4 := by
  refine ⟨_, rfl, State.toFetch_runState _, fun hx => ?_, ?_,
    ((Unchanged.refl s _).writeWithFlag (.inl rfl) (.inr rfl)).toFetch⟩
  · rw [State.reg_toFetch, State.reg_writeWithFlag, if_neg hx, if_pos rfl, hresult]
  · rw [State.reg_toFetch, State.reg_writeWithFlag, if_pos rfl, hflag]

theorem exec_addVxVy (x y : Nibble) (s : State) :
    exec (.addVxVy x y) s = completes (State.writeWithFlag s x (State.reg s x + State.reg s y)
      (carryOut (State.reg s x) (State.reg s y))) := rfl

theorem exec_subVxVy (x y : Nibble) (s : State) :
    exec (.subVxVy x y) s = completes (State.writeWithFlag s x (State.reg s x - State.reg s y)
      (notBorrow (State.reg s x) (State.reg s y))) := rfl

theorem exec_subnVxVy (x y : Nibble) (s : State) :
    exec (.subnVxVy x y) s = completes (State.writeWithFlag s x (State.reg s y - State.reg s x)
      (notBorrow (State.reg s y) (State.reg s x))) := rfl

theorem exec_shrVx (x y : Nibble) (s : State) :
    exec (.shrVx x y) s = completes (State.writeWithFlag s x (State.reg s x >>> 1) (lowBit (State.reg s x))) := rfl

theorem exec_shlVx (x y : Nibble) (s : State) :
    exec (.shlVx x y) s = completes (State.writeWithFlag s x (State.reg s x <<< 1) (highBit (State.reg s x))) := rfl

section
variable (a b : Byte)

theorem toNat_carryOut : (carryOut a b).toNat = if 0xFF < a.toNat + b.toNat then 1 else 0 := by
  simp only [carryOut, toNat_flagByte, decide_eq_true_eq]

theorem toNat_notBorrow : (notBorrow a b).toNat = if b.toNat < a.toNat then 1 else 0 := by
  simp only [notBorrow, toNat_flagByte, decide_eq_true_eq]

theorem toNat_sub_byte : (a - b).toNat = (256 + a.toNat - b.toNat) % 256 := by
  bv_omega

/-- The bit `SHR` shifts out is the remainder of the halving (R168). -/
theorem toNat_lowBit : (lowBit a).toNat = a.toNat % 2 := by
  simp only [lowBit, toNat_flagByte, BitVec.getLsbD, Nat.testBit_zero, decide_eq_true_eq]
  split <;> omega

/-- The bit `SHL` shifts out is the quotient by 128 (R170). -/
theorem toNat_highBit : (highBit a).toNat = a.toNat / 128 := by
  have ha := a.isLt
  simp only [highBit, toNat_flagByte, BitVec.getLsbD, Nat.testBit_eq_decide_div_mod_eq, decide_eq_true_eq]
  split <;> omega

theorem toNat_shiftRight_one : (a >>> 1).toNat = a.toNat / 2 := by
  rw [BitVec.toNat_ushiftRight, Nat.shiftRight_eq_div_pow]

theorem toNat_shiftLeft_one : (a <<< 1).toNat = a.toNat * 2 % 256 := by
  rw [BitVec.toNat_shiftLeft, Nat.shiftLeft_eq]

end

/-- Settles O24: the sum is taken modulo 2^8, the carry from the sum that is not. -/
theorem addWritesCarry : Obligations.AddWritesCarry := by
  unfold Obligations.AddWritesCarry
  intro s x y
  rw [exec_addVxVy]
  exact completes_writeWithFlag s x (BitVec.toNat_add _ _) (toNat_carryOut _ _)

/-- Settles O25: the two forms differ in which register is subtracted from. -/
theorem subtractWritesNotBorrow : Obligations.SubtractWritesNotBorrow := by
  unfold Obligations.SubtractWritesNotBorrow
  intro s x y
  rw [exec_subVxVy, exec_subnVxVy]
  exact ⟨completes_writeWithFlag s x (toNat_sub_byte _ _) (toNat_notBorrow _ _),
    completes_writeWithFlag s x (toNat_sub_byte _ _) (toNat_notBorrow _ _)⟩

/-- Settles O26: each shift's result and the bit it shifts out, as numbers. -/
theorem shiftsWriteBitOut : Obligations.ShiftsWriteBitOut := by
  unfold Obligations.ShiftsWriteBitOut
  intro s x y
  rw [exec_shrVx, exec_shlVx]
  exact ⟨completes_writeWithFlag s x (toNat_shiftRight_one _) (toNat_lowBit _),
    completes_writeWithFlag s x (toNat_shiftLeft_one _) (toNat_highBit _)⟩

/-! ### The drawn byte -/

theorem exec_rndVxKk (x : Nibble) (kk : Byte) (s : State) :
    exec (.rndVxKk x kk) s = completes (randomByte x kk (Config.drawnByte s.draws) s) := rfl

/-- Settles O27: the byte drawn is that of the count of draws, whatever the mask and the destination. -/
theorem randomByteUnderMask : Obligations.RandomByteUnderMask := by
  unfold Obligations.RandomByteUnderMask
  intro s
  refine ⟨Config.drawnByte s.draws, fun x kk => ⟨_, exec_rndVxKk x kk s, State.toFetch_runState _, ?_, rfl, ?_⟩⟩
  · exact State.reg_setReg_same s x _
  · exact (((Unchanged.refl s _).setReg (.inl rfl)).setDraws (.inr rfl)).toFetch

/-! ### The timers -/

theorem exec_ldVxDt (x : Nibble) (s : State) : exec (.ldVxDt x) s = completes (State.setReg s x s.dt) := rfl

theorem exec_ldDtVx (x : Nibble) (s : State) : exec (.ldDtVx x) s = completes { s with dt := State.reg s x } := rfl

theorem exec_ldStVx (x : Nibble) (s : State) : exec (.ldStVx x) s = completes { s with st := State.reg s x } := rfl

/-- The sound output is on exactly while the sound timer is not 0 (R218). -/
theorem State.soundOn_iff (s : State) : State.soundOn s = true ↔ s.st ≠ 0#8 := by
  rw [State.soundOn, decide_eq_true_eq, Nat.pos_iff_ne_zero, Ne, Ne, ← BitVec.toNat_inj]
  rfl

/-- Settles O43: each form writes the one part it names. -/
theorem timerReadsAndSets : Obligations.TimerReadsAndSets := by
  unfold Obligations.TimerReadsAndSets
  intro s x
  rw [exec_ldVxDt, exec_ldDtVx, exec_ldStVx]
  refine ⟨completes_setReg s x s.dt, ?delay, ?sound⟩
  case delay =>
    exact ⟨_, rfl, State.toFetch_runState _, rfl,
      ((Unchanged.refl s fun p => p = .delayTimer).setDt rfl).toFetch⟩
  case sound =>
    exact ⟨_, rfl, State.toFetch_runState _, rfl, State.soundOn_iff _,
      ((Unchanged.refl s fun p => p = .soundTimer).setSt rfl).toFetch⟩

end Sys2Proof.Machine
end

section
/-! PROOFS. The display (`43_display.md`): drawing a sprite. -/

namespace Sys2Proof.Machine

/-- What `DRW Vx, Vy, n` draws from state `s`: the sprite at `I` onto the screen, no collision noted before (R181). -/
def drawnCanvas (s : State) (x y n : Nibble) : Canvas :=
  drawRows (State.reg s x) (State.reg s y) 0 (State.loadBytes s n.toNat) ⟨s.screen, false⟩

/-- The state after `DRW` in bounds. -/
def drawnState (s : State) (x y n : Nibble) : State :=
  State.toFetch (State.setVF { s with screen := (drawnCanvas s x y n).screen } (flagByte (drawnCanvas s x y n).hit))

section
variable {s : State} {x y n : Nibble}

theorem exec_drw_eq_drawnState (h : s.i.toNat + n.toNat ≤ 65536) :
    exec (.drw x y n) s = .next (drawnState s x y n) := exec_drw_of_le h

theorem length_loadBytes_le (s : State) (n : Nibble) : (State.loadBytes s n.toNat).length ≤ 32 := by
  rw [State.loadBytes, Memory.length_readBytes]
  omega

theorem pixel_drawnState (s : State) (x y n : Nibble) (py px : Nat) :
    pixel (drawnState s x y n).screen py px = true ↔
      ¬ (pixel s.screen py px = true ↔ SpriteOn s x y n py px) := by
  rw [← rowsOn_loadBytes]
  exact pixel_drawRows _ _ 0 _ (length_loadBytes_le s n) ⟨s.screen, false⟩ py px

theorem hit_drawnCanvas (s : State) (x y n : Nibble) :
    (drawnCanvas s x y n).hit = true ↔ ∃ py px, pixel s.screen py px = true ∧ SpriteOn s x y n py px := by
  simp only [drawnCanvas, hit_drawRows _ _ 0 _ (length_loadBytes_le s n), rowsOn_loadBytes, Bool.false_eq_true,
    false_or, and_comm]

theorem reg_VF_drawnState (s : State) (x y n : Nibble) :
    State.reg (drawnState s x y n) 0xF#4 = flagByte (drawnCanvas s x y n).hit := State.reg_setReg_same _ _ _

theorem Unchanged.setVF {t : State} {w : Part → Prop} (h : Unchanged s t w) (hVF : w (.reg 0xF#4)) (b : Byte) :
    Unchanged s (State.setVF t b) w := h.setReg hVF

theorem drawnState_frame (s : State) (x y n : Nibble) :
    Unchanged s (drawnState s x y n) fun p => p = .reg 0xF#4 ∨ ∃ py px, p = .pixel py px :=
  (((Unchanged.refl s _).setScreen fun py px => .inr ⟨py, px, rfl⟩).setVF (.inl rfl) _).toFetch

end

/-- Settles O29: the blit flips the sprite's pixels, and its collision flag is what VF takes. -/
theorem drawFlipsSpritePixels : Obligations.DrawFlipsSpritePixels := by
  unfold Obligations.DrawFlipsSpritePixels
  intro s x y n hin
  refine ⟨_, exec_drw_eq_drawnState hin, rfl, fun py px _ _ => pixel_drawnState s x y n py px, fun hhit => ?_,
    fun hnone => ?_, drawnState_frame s x y n⟩
  · rw [reg_VF_drawnState, (hit_drawnCanvas s x y n).mpr hhit]
    rfl
  · rw [reg_VF_drawnState, Bool.eq_false_iff.mpr (mt (hit_drawnCanvas s x y n).mp hnone)]
    rfl

/-- The sprite of a `DRW` depends on its two coordinates, `I` and memory alone. -/
theorem spriteOn_congr {s t : State} {x y : Nibble} (hx : State.reg t x = State.reg s x)
    (hy : State.reg t y = State.reg s y) (hindex : t.i = s.i) (hmem : ∀ a, Memory.read t.mem a = Memory.read s.mem a)
    (n : Nibble) (py px : Nat) : SpriteOn t x y n py px ↔ SpriteOn s x y n py px := by
  simp only [SpriteOn, hx, hy, hindex, hmem]

/-- Settles O30: the first draw changes neither the place nor the sprite, so the second flips the same pixels back. -/
theorem drawTwiceRestoresScreen : Obligations.DrawTwiceRestoresScreen := by
  unfold Obligations.DrawTwiceRestoresScreen
  intro s t u x y n hx hy hin hfirst hsecond py px _ _
  cases (exec_drw_eq_drawnState hin).symm.trans hfirst
  cases (exec_drw_eq_drawnState (s := drawnState s x y n) hin).symm.trans hsecond
  have hframe := drawnState_frame s x y n
  have hsprite : SpriteOn (drawnState s x y n) x y n py px ↔ SpriteOn s x y n py px :=
    spriteOn_congr (hframe (.reg x) (by simpa using hx)) (hframe (.reg y) (by simpa using hy)) rfl (fun _ => rfl)
      n py px
  rw [Bool.eq_iff_iff, pixel_drawnState, pixel_drawnState, hsprite]
  tauto

/-- Settles O31: on a cleared screen flipping a pixel turns it on, and there is nothing to collide with. -/
theorem clearThenDrawShowsSprite : Obligations.ClearThenDrawShowsSprite := by
  unfold Obligations.ClearThenDrawShowsSprite
  intro s t x y n hin hcls
  cases (exec_cls s).symm.trans hcls
  obtain ⟨u, hdraw, -, hpixel, -, hnone, -⟩ :=
    drawFlipsSpritePixels (State.toFetch { s with screen := Vector.replicate 32 0#64 }) x y n hin
  have hoff (py px : Nat) :
      pixel (State.toFetch { s with screen := Vector.replicate 32 0#64 }).screen py px = false :=
    pixel_replicate_zero py px
  refine ⟨u, hdraw, hnone ?_, fun py px hpy hpx => ?_⟩
  · rintro ⟨py, px, hon, -⟩
    cases (hoff py px).symm.trans hon
  · rw [hpixel py px hpy hpx, hoff]
    have hsprite : SpriteOn (State.toFetch { s with screen := Vector.replicate 32 0#64 }) x y n py px ↔
        SpriteOn s x y n py px := Iff.rfl
    simp [hsprite]

end Sys2Proof.Machine
end

section
/-! PROOFS. Memory (`20_memory.md` section 9): a store is seen by the next fetch. -/

namespace Sys2Proof.Machine

/-- Settles O42: the store leaves `pc` and puts the two registers under it, which the fetch reads big-endian. -/
theorem storeSeenByNextFetch : Obligations.StoreSeenByNextFetch := by
  unfold Obligations.StoreSeenByNextFetch
  intro s t x a b hwf hpc hin hstore ha hb hbx
  obtain ⟨u, hnext, -, hread, hframe⟩ := (registerBlockStored s x hwf).1 hin
  cases hnext.symm.trans hstore
  have hsamePc : t.pc = s.pc := hframe .pc (by simp)
  obtain ⟨hword, -⟩ := fetchBuffersWord t (hsamePc ▸ hpc)
  have hhigh : Memory.read t.mem t.pc.toNat = State.reg s a := by
    rw [hsamePc, ha]
    exact hread a (by omega)
  have hlow : Memory.read t.mem (t.pc.toNat + 1) = State.reg s b := by
    rw [hsamePc, ha, Nat.add_assoc, ← hb]
    exact hread b hbx
  rw [hword, hhigh, hlow]

end Sys2Proof.Machine
end

section
/-! PROOFS. Whole-machine rules: what an instruction can write, over all 35 forms. -/

namespace Sys2Proof.Machine

/-- Whether an instruction that completes, or waits on, can write a part: the lists of writers of `10_state.md`
sections 1, 5 and 7. -/
def writesPart (i : Instr) : Part → Prop
  | .reg r => writesReg i r = true
  | .index => (∃ nnn, i = .ldINnn nnn) ∨ (∃ x, i = .addIVx x) ∨ ∃ x, i = .ldFVx x
  | .pc => (∃ nnn, i = .jp nnn ∨ i = .jpV0Nnn nnn ∨ i = .call nnn) ∨ i = .ret ∨
      (∃ x kk, i = .seVxKk x kk ∨ i = .sneVxKk x kk) ∨ (∃ x y, i = .seVxVy x y ∨ i = .sneVxVy x y) ∨
      ∃ x, i = .skpVx x ∨ i = .sknpVx x
  | .stack => (∃ nnn, i = .call nnn) ∨ i = .ret
  | .delayTimer => ∃ x, i = .ldDtVx x
  | .soundTimer => ∃ x, i = .ldStVx x
  | .pixel _ _ => i = .cls ∨ ∃ x y n, i = .drw x y n
  | .keys => ∃ x, i = .ldVxK x
  | .pressedKey => ∃ x, i = .ldVxK x
  | .byte _ => (∃ x, i = .ldBVx x) ∨ ∃ x, i = .ldMemVx x
  | .ibPc => False
  | .ibOp => False
  | .ibInstr => False
  | .effect => False
  | .faultRecord => False
  | .fetchCount => False
  | .params => False
  | .hostQueue => ∃ x, i = .ldVxK x
  | .draws => ∃ x kk, i = .rndVxKk x kk

/-- The bounds of the invariant that no run state bears on: memory in canonical form, at most 16 stack entries, a key
slot of at most 16 (R31, R36, R50). -/
def State.Bounded (s : State) : Prop :=
  Memory.wf s.mem = true ∧ s.stack.length ≤ Config.stackCap ∧ s.pressedKey.toNat ≤ 16

/-- What performing `i` from `s` answers: a state in which only parts that `i` is a writer of differ, in which the
bounds still hold and which waits only if `i` is the key wait, or the fault. -/
inductive Performed (i : Instr) (s : State) : Result → Prop
  | written {t : State} (hframe : Unchanged s t (writesPart i)) (hbounded : State.Bounded s → State.Bounded t)
      (hwaits : t.runState = .waitKey → ∃ x, i = .ldVxK x) : Performed i s (.next t)
  | faulted (kind : FaultKind) (info : FaultInfo) : Performed i s (.next (Faulted s kind info))

section
variable {i : Instr} {s t : State}

theorem performed_completes (hframe : Unchanged s t (writesPart i)) (hbounded : State.Bounded s → State.Bounded t) :
    Performed i s (completes t) := .written hframe.toFetch hbounded (by nofun)

theorem performed_setReg {x : Nibble} (hx : writesReg i x = true) (b : Byte) :
    Performed i s (completes (State.setReg s x b)) :=
  performed_completes ((Unchanged.refl s (writesPart i)).setReg hx) id

theorem performed_writeWithFlag {x : Nibble} (hx : writesReg i x = true) (hVF : writesReg i 0xF#4 = true)
    (result flag : Byte) : Performed i s (completes (State.writeWithFlag s x result flag)) :=
  performed_completes ((Unchanged.refl s (writesPart i)).writeWithFlag hx hVF) id

theorem performed_skipIf (hpc : writesPart i .pc) (c : Bool) : Performed i s (completes (State.skipIf s c)) :=
  performed_completes ((Unchanged.refl s (writesPart i)).skipIf hpc c) (by cases c <;> exact id)

theorem performed_setPc (hpc : writesPart i .pc) (a : Word) : Performed i s (completes (State.setPc s a)) :=
  performed_completes ((Unchanged.refl s (writesPart i)).setPc hpc) id

theorem performed_setI (hindex : writesPart i .index) (a : Word) : Performed i s (completes (State.setI s a)) :=
  performed_completes ((Unchanged.refl s (writesPart i)).setI hindex) id

theorem performed_setStack (hpc : writesPart i .pc) (hstack : writesPart i .stack) {entries : List Word}
    (hlength : s.stack.length ≤ 16 → entries.length ≤ 16) (a : Word) :
    Performed i s (completes { State.setPc s a with stack := entries }) :=
  performed_completes (((Unchanged.refl s (writesPart i)).setPc hpc).setStack hstack)
    fun ⟨hmem, hlen, hkey⟩ => ⟨hmem, hlength hlen, hkey⟩

theorem performed_storeBytes (hbyte : ∀ a, writesPart i (.byte a)) {bs : List Byte}
    (hin : s.i.toNat + bs.length ≤ 65536) : Performed i s (completes (State.storeBytes s bs)) :=
  performed_completes ((Unchanged.refl s (writesPart i)).storeBytes fun _ _ => hbyte _)
    fun ⟨hmem, hlen, hkey⟩ => ⟨State.wf_storeBytes s bs (inBounds_of_le hin) hmem, hlen, hkey⟩

end

/-- A key's index is in the range of `pressed_key` (R36). -/
theorem toNat_keySlot_le (k : Nibble) : (k.setWidth 5).toNat ≤ 16 := by
  rw [BitVec.toNat_setWidth_of_le (by decide)]
  exact Nat.le_of_lt k.isLt

/-- The key wait, by the front end's next action. -/
theorem performed_ldVxK (x : Nibble) (s : State) : Performed (.ldVxK x) s (exec (.ldVxK x) s) := by
  have hwrites : writesReg (.ldVxK x) x = true := beq_self_eq_true x
  cases hqueue : s.hostQueue with
  | nil =>
    rw [exec_ldVxK_of_nil hqueue]
    exact .written (Unchanged.refl s _).setRunState id fun _ => ⟨x, rfl⟩
  | cons action rest =>
    have htaken : Unchanged s { s with hostQueue := rest } (writesPart (.ldVxK x)) :=
      (Unchanged.refl s (writesPart (.ldVxK x))).setHostQueue ⟨x, rfl⟩
    cases action with
    | updateKeys b =>
      rw [exec_ldVxK_of_updateKeys hqueue]
      exact .written (htaken.setKeys (b := b) ⟨x, rfl⟩).setRunState id fun _ => ⟨x, rfl⟩
    | resolveKey k =>
      rw [exec_ldVxK_of_resolveKey hqueue]
      exact .written (htaken.deliverKey hwrites ⟨x, rfl⟩ k)
        (fun ⟨hmem, hlen, _⟩ => ⟨hmem, hlen, toNat_keySlot_le k⟩) (by nofun)
    | cancelWait =>
      rw [exec_ldVxK_of_cancelWait hqueue]
      exact .written (htaken.cancelWait ⟨x, rfl⟩) (fun ⟨hmem, hlen, _⟩ => ⟨hmem, hlen, Nat.le_refl 16⟩) (by nofun)

/-- Every instruction writes only what it is listed as a writer of, form by form. -/
theorem performed_exec (i : Instr) (s : State) : Performed i s (exec i s) := by
  cases i with
  | cls =>
    exact performed_completes ((Unchanged.refl s (writesPart .cls)).setScreen fun _ _ => .inl rfl) id
  | sys nnn =>
    cases h : s.params.sysBehaviour with
    | fault => rw [exec_sys_of_fault h]; exact .faulted _ _
    | nop => rw [exec_sys_of_nop h]; exact performed_completes (Unchanged.refl s _) id
  | ret =>
    cases h : s.stack with
    | nil => rw [exec_ret_of_nil h]; exact .faulted _ _
    | cons a rest =>
      rw [exec_ret_of_cons h]
      have hpopped (hlen : s.stack.length ≤ 16) : rest.length ≤ 16 := by
        rw [h, List.length_cons] at hlen
        omega
      exact performed_setStack (by simp [writesPart]) (.inr rfl) hpopped a
  | call nnn =>
    obtain hroom | hfull := Nat.lt_or_ge s.stack.length 16
    · have hpushed (_ : s.stack.length ≤ 16) : (s.pc :: s.stack).length ≤ 16 := Nat.succ_le_of_lt hroom
      rw [exec_call_of_room hroom]
      exact performed_setStack (by simp [writesPart]) (.inl ⟨nnn, rfl⟩) hpushed (zextAddr nnn)
    · rw [exec_call_of_full hfull]
      exact .faulted _ _
  | jp | jpV0Nnn => exact performed_setPc (by simp [writesPart]) _
  | seVxKk | sneVxKk | seVxVy | sneVxVy => exact performed_skipIf (by simp [writesPart]) _
  | ldVxKk x | addVxKk x | ldVxVy x | orVxVy x | andVxVy x | xorVxVy x | ldVxDt x =>
    exact performed_setReg (by simp [writesReg]) _
  | addVxVy x | subVxVy x | shrVx x | subnVxVy x | shlVx x =>
    exact performed_writeWithFlag (by simp [writesReg]) (by simp [writesReg]) _ _
  | ldINnn nnn => exact performed_setI (.inl ⟨nnn, rfl⟩) _
  | addIVx x => exact performed_setI (.inr (.inl ⟨x, rfl⟩)) _
  | ldFVx x => exact performed_setI (.inr (.inr ⟨x, rfl⟩)) _
  | rndVxKk x kk =>
    exact performed_completes
      (((Unchanged.refl s (writesPart (.rndVxKk x kk))).setReg (beq_self_eq_true x)).setDraws ⟨x, kk, rfl⟩) id
  | ldDtVx x => exact performed_completes ((Unchanged.refl s (writesPart (.ldDtVx x))).setDt ⟨x, rfl⟩) id
  | ldStVx x => exact performed_completes ((Unchanged.refl s (writesPart (.ldStVx x))).setSt ⟨x, rfl⟩) id
  | drw x y n =>
    obtain hout | hin := Nat.lt_or_ge 65536 (s.i.toNat + n.toNat)
    · rw [exec_drw_of_gt hout]
      exact .faulted _ _
    · rw [exec_drw_of_le hin]
      exact performed_completes (((Unchanged.refl s (writesPart (.drw x y n))).setScreen
        fun _ _ => .inr ⟨x, y, n, rfl⟩).setVF (beq_self_eq_true 0xF#4) _) id
  | skpVx x =>
    obtain hkey | hnone := Nat.lt_or_ge (State.reg s x).toNat 16
    · rw [exec_skpVx_of_lt hkey]
      exact performed_skipIf (by simp [writesPart]) _
    · rw [exec_skpVx_of_ge hnone]
      exact .faulted _ _
  | sknpVx x =>
    obtain hkey | hnone := Nat.lt_or_ge (State.reg s x).toNat 16
    · rw [exec_sknpVx_of_lt hkey]
      exact performed_skipIf (by simp [writesPart]) _
    · rw [exec_sknpVx_of_ge hnone]
      exact .faulted _ _
  | ldVxK x => exact performed_ldVxK x s
  | ldBVx x =>
    obtain hout | hin := Nat.lt_or_ge 65536 (s.i.toNat + 3)
    · rw [exec_ldBVx_of_gt hout]
      exact .faulted _ _
    · rw [exec_ldBVx_of_le hin]
      exact performed_storeBytes (fun _ => .inl ⟨x, rfl⟩) hin
  | ldMemVx x =>
    obtain hout | hin := Nat.lt_or_ge 65536 (s.i.toNat + (x.toNat + 1))
    · rw [exec_ldMemVx_of_gt hout]
      exact .faulted _ _
    · rw [exec_ldMemVx_of_le hin]
      exact performed_storeBytes (fun _ => .inr ⟨x, rfl⟩) ((State.length_regsUpTo s x).symm ▸ hin)
  | ldVxMem x =>
    obtain hout | hin := Nat.lt_or_ge 65536 (s.i.toNat + (x.toNat + 1))
    · rw [exec_ldVxMem_of_gt hout]
      exact .faulted _ _
    · rw [exec_ldVxMem_of_le hin]
      refine performed_completes ((Unchanged.refl s (writesPart (.ldVxMem x))).setRegs fun r hr => ?_) id
      exact State.reg_writeRegs_loadBytes_of_gt s (by simpa [writesPart, writesReg] using hr)

/-! ### Frames of `exec` -/

/-- Taking a fault writes the record and no other part (R236). -/
theorem Faulted_frame (s : State) (kind : FaultKind) (info : FaultInfo) :
    Unchanged s (Faulted s kind info) fun p => p = .faultRecord := by
  intro p hp
  cases p with
  | faultRecord => exact absurd rfl hp
  | _ => rfl

section
variable {i : Instr} {s t : State}

/-- What `exec` does not list as written by an instruction, it leaves, but for the record of a fault. -/
theorem exec_frame (hnext : exec i s = .next t) (p : Part) (hp : ¬ writesPart i p)
    (hrecord : p ≠ .faultRecord := by nofun) : Part.same s t p := by
  have hperformed : Performed i s (.next t) := hnext ▸ performed_exec i s
  cases hperformed with
  | written hframe => exact hframe p hp
  | faulted kind info => exact Faulted_frame s kind info p hrecord

theorem exec_keeps_bounded (hnext : exec i s = .next t) (hs : State.Bounded s) : State.Bounded t := by
  have hperformed : Performed i s (.next t) := hnext ▸ performed_exec i s
  cases hperformed with
  | written _ hbounded => exact hbounded hs
  | faulted kind info => exact hs

/-- Only a fault writes the record. -/
theorem exec_faultRecord (hnext : exec i s = .next t) (hrun : t.runState ≠ .faulted) :
    t.faultRecord = s.faultRecord := by
  have hperformed : Performed i s (.next t) := hnext ▸ performed_exec i s
  cases hperformed with
  | written hframe => exact hframe .faultRecord id
  | faulted kind info => exact absurd rfl hrun

/-- Only the key wait leaves the block waiting. -/
theorem exists_eq_ldVxK_of_waitKey (hnext : exec i s = .next t) (hrun : t.runState = .waitKey) :
    ∃ x, i = .ldVxK x := by
  have hperformed : Performed i s (.next t) := hnext ▸ performed_exec i s
  cases hperformed with
  | written _ _ hwaits => exact hwaits hrun
  | faulted kind info => cases hrun

end

/-! ### The obligations -/

/-- Settles O44: the frame of `exec`, at a register. -/
theorem registerWritersListed : Obligations.RegisterWritersListed := by
  unfold Obligations.RegisterWritersListed
  intro i s t r hnext hlist
  exact exec_frame hnext (.reg r) (Bool.eq_false_iff.mp hlist)

/-- Settles O45: the frame of `exec`, at the stack, a byte of memory and a pixel. -/
theorem storageWriters : Obligations.StorageWriters := by
  unfold Obligations.StorageWriters
  intro i s t hnext
  refine ⟨fun hcall hret => ?stack, fun hldB hldMem a => ?memory, fun hcls hdrw py px => ?screen⟩
  case stack => exact exec_frame hnext .stack (by simp [writesPart, hcall, hret])
  case memory => exact exec_frame hnext (.byte a) (by simp [writesPart, hldB, hldMem])
  case screen => exact exec_frame hnext (.pixel py px) (by simp [writesPart, hcls, hdrw])

/-- Settles O46: the frame of `exec`, at each of the special registers. -/
theorem specialRegisterWriters : Obligations.SpecialRegisterWriters := by
  unfold Obligations.SpecialRegisterWriters
  intro i s t hnext
  refine ⟨fun hldI haddI hldF => ?index, fun hldDt => ?delay, fun hldSt => ?sound, fun hwait => ?wait,
    fun hrnd => ?draws⟩
  case index => exact exec_frame hnext .index (by simp [writesPart, hldI, haddI, hldF])
  case delay => exact exec_frame hnext .delayTimer (not_exists.mpr hldDt)
  case sound => exact exec_frame hnext .soundTimer (not_exists.mpr hldSt)
  case wait =>
    have hnone : ¬ ∃ x, i = .ldVxK x := not_exists.mpr hwait
    exact ⟨exec_frame hnext .keys hnone, exec_frame hnext .pressedKey hnone, exec_frame hnext .hostQueue hnone⟩
  case draws => exact exec_frame hnext .draws (by simp [writesPart, hrnd])

/-- Settles O47: the frame of `exec`, at the control state, which has no writers. -/
theorem controlStateUntouched : Obligations.ControlStateUntouched := by
  unfold Obligations.ControlStateUntouched
  intro i s t hnext
  exact ⟨exec_frame hnext .ibPc id, exec_frame hnext .ibOp id, exec_frame hnext .ibInstr id,
    exec_frame hnext .effect id, exec_frame hnext .fetchCount id, exec_frame hnext .params id,
    exec_faultRecord hnext⟩

end Sys2Proof.Machine
end

section
/-! PROOFS. Whole-machine rules: what every step keeps, by way of the single transitions. -/

namespace Sys2Proof.Machine

/-! ### What a transition is -/

/-- The transitions that answer a next state, one for each run state that has one (R120, R121). -/
inductive Transition (s : State) : State → Prop
  | fetch (hrun : s.runState = .fetch) : Transition s (fetchStep s)
  | decode (hrun : s.runState = .decode) : Transition s (decodeStep s)
  | execute {i : Instr} {t : State} (hrun : s.runState = .execute) (hbuffered : s.ibInstr = some i)
      (hexec : exec i (State.hostTurn s) = .next t) : Transition s t
  | waitKey {i : Instr} {t : State} (hrun : s.runState = .waitKey) (hbuffered : s.ibInstr = some i)
      (hexec : exec i s = .next t) : Transition s t

theorem exists_of_runBuffered {s t : State} (h : runBuffered s = .next t) :
    ∃ i, s.ibInstr = some i ∧ exec i s = .next t := by
  cases hbuffered : s.ibInstr with
  | none => cases (runBuffered_of_none hbuffered).symm.trans h
  | some i => exact ⟨i, rfl, (runBuffered_of_some hbuffered).symm.trans h⟩

theorem transition_of_next {s t : State} (h : transition s = .next t) : Transition s t := by
  cases hrun : s.runState with
  | fetch =>
    simp only [transition, hrun] at h
    cases h
    exact .fetch hrun
  | decode =>
    cases (transition_of_decode hrun).symm.trans h
    exact .decode hrun
  | execute =>
    obtain ⟨i, hbuffered, hexec⟩ := exists_of_runBuffered ((transition_of_execute hrun).symm.trans h)
    exact .execute hrun (State.hostTurn_ibInstr s ▸ hbuffered) hexec
  | waitKey =>
    obtain ⟨i, hbuffered, hexec⟩ := exists_of_runBuffered ((transition_of_waitKey hrun).symm.trans h)
    exact .waitKey hrun hbuffered hexec
  | faulted | halted =>
    simp only [transition, hrun] at h
    cases h

/-- What every transition keeps, following transitions keeps. -/
theorem settle_keeps {P : State → Prop} (hkeeps : ∀ s t, P s → Transition s t → P t) (n : Nat) {r : Result}
    (hr : ∀ t, r = .next t → P t) {u : State} (hu : settle n r = .next u) : P u := by
  induction n generalizing r with
  | zero => exact hr u hu
  | succ n ih =>
    cases r with
    | next t =>
      by_cases hrun : t.runState = .decode ∨ t.runState = .execute
      · rw [settle_succ_next hrun] at hu
        exact ih (fun v hv => hkeeps t v (hr t rfl) (transition_of_next hv)) hu
      · cases (if_neg hrun : settle (n + 1) (.next t) = .next t).symm.trans hu
        exact hr u rfl
    | fault f => cases hu
    | refused r => cases hu

/-- What every transition keeps, every step keeps. -/
theorem step_keeps {P : State → Prop} (hkeeps : ∀ s t, P s → Transition s t → P t) {s t : State} (hs : P s)
    (hstep : step s = .next t) : P t :=
  settle_keeps hkeeps 2 (fun u hu => hkeeps s u hs (transition_of_next hu)) ((step_eq_settle s).symm.trans hstep)

/-! ### The launch parameters -/

theorem fetchStep_params (s : State) : (fetchStep s).params = s.params := by
  cases hpc : fetchable s.pc with
  | true => rw [fetchStep_ok s hpc, State.timerTick_params]
  | false => rw [fetchStep_bad s hpc, State.enterFault_params]

theorem decodeStep_params (s : State) : (decodeStep s).params = s.params := by
  unfold decodeStep
  split <;> rfl

theorem transition_params {s t : State} (h : Transition s t) : t.params = s.params := by
  cases h with
  | fetch => exact fetchStep_params s
  | decode => exact decodeStep_params s
  | execute _ _ hexec =>
    obtain ⟨keys, queue, hturn⟩ := State.hostTurn_eq s
    rw [hturn] at hexec
    exact exec_frame hexec .params id
  | waitKey _ _ hexec => exact exec_frame hexec .params id

/-- Settles O51: no transition changes the parameters. -/
theorem stepKeepsParameters : Obligations.StepKeepsParameters := by
  unfold Obligations.StepKeepsParameters
  intro s t hstep
  exact step_keeps (P := fun u => u.params = s.params) (fun u v hu h => (transition_params h).trans hu) rfl hstep

/-! ### The invariant -/

section
variable {s t : State}

theorem State.Inv.bounded (h : State.Inv s) : State.Bounded s := ⟨h.memory, h.stack, h.pressedKey⟩

/-- Outside FAULTED there is no fault record. -/
theorem State.Inv.faultRecord_eq_none (h : State.Inv s) (hrun : s.runState ≠ .faulted) : s.faultRecord = none :=
  Option.not_isSome_iff_eq_none.mp (mt h.record.mp hrun)

/-- The invariant of a state outside FAULTED, from its bounds, the missing record and the buffer. -/
theorem State.inv_of_bounded (hbounded : State.Bounded s)
    (hprescaler : s.fetchCount < s.params.fetchesPerTimerDecrement) (hnone : s.faultRecord = none)
    (hrun : s.runState ≠ .faulted) (hbuffer : State.bufferOk s) : State.Inv s where
  memory := hbounded.1
  stack := hbounded.2.1
  prescaler := hprescaler
  pressedKey := hbounded.2.2
  record := by simp [hnone, hrun]
  buffer := hbuffer

/-- Between instructions and after the last the invariant says nothing of the buffer. -/
theorem State.bufferOk_of_ne (hdecode : s.runState ≠ .decode) (hexecute : s.runState ≠ .execute)
    (hwait : s.runState ≠ .waitKey) : State.bufferOk s :=
  ⟨fun h => by simp [hdecode, hexecute, hwait] at h, fun h => by simp [hexecute, hwait] at h⟩

/-- Taking a fault keeps the invariant. -/
theorem State.Inv.enterFault (h : State.Inv s) (r : FaultRecord) : State.Inv (State.enterFault s r) where
  memory := h.memory
  stack := h.stack
  prescaler := h.prescaler
  pressedKey := h.pressedKey
  record := ⟨fun _ => rfl, fun _ => rfl⟩
  buffer := State.bufferOk_of_ne (by nofun) (by nofun) (by nofun)

/-- The key flags and the queue are no part of the invariant. -/
theorem State.Inv.setKeys_setHostQueue (h : State.Inv s) (keys : Vector Bool 16) (queue : List HostAction) :
    State.Inv { s with keys := keys, hostQueue := queue } where
  memory := h.memory
  stack := h.stack
  prescaler := h.prescaler
  pressedKey := h.pressedKey
  record := h.record
  buffer := h.buffer

/-- The prescaler starts again at the cadence, so it stays below it (R43, R125). -/
theorem State.timerTick_prescaler (h : s.fetchCount < s.params.fetchesPerTimerDecrement) :
    (State.timerTick s).fetchCount < (State.timerTick s).params.fetchesPerTimerDecrement := by
  simp only [State.timerTick, State.tickDue, decide_eq_true_eq]
  split <;> omega

theorem fetchStep_keeps_inv (h : State.Inv s) (hrun : s.runState = .fetch) : State.Inv (fetchStep s) := by
  cases hpc : fetchable s.pc with
  | false => rw [fetchStep_bad s hpc]; exact h.enterFault _
  | true =>
    have hnone := h.faultRecord_eq_none (by rw [hrun]; nofun)
    rw [fetchStep_ok s hpc]
    exact State.inv_of_bounded h.bounded (State.timerTick_prescaler h.prescaler) hnone (by nofun)
      ⟨fun _ => ⟨rfl, hpc⟩, by nofun⟩

theorem decodeStep_keeps_inv (h : State.Inv s) (hrun : s.runState = .decode) : State.Inv (decodeStep s) := by
  cases hdecode : decode s.ibOp with
  | illegal | truncated =>
    simp only [decodeStep, hdecode]
    exact h.enterFault _
  | instr i =>
    have hnone := h.faultRecord_eq_none (by rw [hrun]; nofun)
    have hrunState : (State.buffer s i).runState = .waitKey ↔ i.sideEffect = .blocksOnKey := by simp
    rw [decodeStep_instr s hdecode]
    refine State.inv_of_bounded h.bounded h.prescaler hnone ?_ ⟨fun _ => h.buffer.1 (.inl hrun), fun _ => ?_⟩
    · rw [State.buffer_runState]
      split <;> nofun
    · exact ⟨i, rfl, hdecode, rfl, hrunState⟩

/-- A key wait that goes on keeps the buffer, which holds its instruction. -/
theorem exec_keeps_bufferOk {i : Instr} (hbuffer : State.bufferOk s)
    (hrun : s.runState = .execute ∨ s.runState = .waitKey) (hinstr : s.ibInstr = some i) (hexec : exec i s = .next t)
    (hwait : t.runState = .waitKey) : State.bufferOk t := by
  obtain ⟨x, rfl⟩ := exists_eq_ldVxK_of_waitKey hexec hwait
  have hpc : t.pc = s.pc := exec_frame hexec .pc (by simp [writesPart])
  have hibPc : t.ibPc = s.ibPc := exec_frame hexec .ibPc id
  have hibOp : t.ibOp = s.ibOp := exec_frame hexec .ibOp id
  have hibInstr : t.ibInstr = s.ibInstr := exec_frame hexec .ibInstr id
  have heffect : t.effect = s.effect := exec_frame hexec .effect id
  obtain ⟨j, hj, hdecode, hclass, -⟩ := hbuffer.2 hrun
  cases hinstr.symm.trans hj
  rw [State.bufferOk, hpc, hibPc, hibOp, hibInstr, heffect]
  exact ⟨fun _ => hbuffer.1 (.inr hrun), fun _ => ⟨_, hinstr, hdecode, hclass, fun _ => rfl, fun _ => hwait⟩⟩

theorem exec_keeps_inv {i : Instr} (h : State.Inv s) (hrun : s.runState = .execute ∨ s.runState = .waitKey)
    (hinstr : s.ibInstr = some i) (hexec : exec i s = .next t) : State.Inv t := by
  by_cases hfaulted : t.runState = .faulted
  · obtain ⟨kind, info, rfl⟩ := eq_Faulted_of_exec hexec hfaulted
    exact h.enterFault _
  have hnone : t.faultRecord = none := by
    rw [exec_faultRecord hexec hfaulted]
    exact h.faultRecord_eq_none (by rcases hrun with hrun | hrun <;> rw [hrun] <;> nofun)
  have hcount : t.fetchCount = s.fetchCount := exec_frame hexec .fetchCount id
  have hparams : t.params = s.params := exec_frame hexec .params id
  obtain ⟨hdecode, hexecute⟩ := settled_exec i s t hexec
  refine State.inv_of_bounded (exec_keeps_bounded hexec h.bounded) (by rw [hcount, hparams]; exact h.prescaler) hnone
    hfaulted ?_
  by_cases hwait : t.runState = .waitKey
  · exact exec_keeps_bufferOk h.buffer hrun hinstr hexec hwait
  · exact State.bufferOk_of_ne hdecode hexecute hwait

theorem transition_keeps_inv (h : State.Inv s) (htransition : Transition s t) : State.Inv t := by
  cases htransition with
  | fetch hrun => exact fetchStep_keeps_inv h hrun
  | decode hrun => exact decodeStep_keeps_inv h hrun
  | execute hrun hbuffered hexec =>
    obtain ⟨keys, queue, hturn⟩ := State.hostTurn_eq s
    rw [hturn] at hexec
    exact exec_keeps_inv (h.setKeys_setHostQueue keys queue) (.inl hrun) hbuffered hexec
  | waitKey hrun hbuffered hexec => exact exec_keeps_inv h (.inr hrun) hbuffered hexec

end

/-- Settles O52: every single transition keeps the invariant, and a step follows transitions. -/
theorem stepKeepsInvariant : Obligations.StepKeepsInvariant := by
  unfold Obligations.StepKeepsInvariant
  exact fun s t h hstep => step_keeps (fun _ _ => transition_keeps_inv) h hstep

/-- Settles O53: reset is in FETCH with an empty stack, and the cadence is positive. -/
theorem resetMeetsInvariant : Obligations.ResetMeetsInvariant := by
  unfold Obligations.ResetMeetsInvariant
  exact State.inv_of_bounded ⟨rfl, Nat.zero_le _, Nat.le_refl 16⟩ Config.fetchesPerTimerDecrement.pos rfl (by nofun)
    (State.bufferOk_of_ne (by nofun) (by nofun) (by nofun))

/-! ### The front end's actions -/

section
variable {s : State}

theorem State.Inv.deliverKey (h : State.Inv s) (hrun : s.runState ≠ .faulted) (x k : Nibble) :
    State.Inv (State.deliverKey s x k) :=
  State.inv_of_bounded ⟨h.memory, h.stack, toNat_keySlot_le k⟩ h.prescaler (h.faultRecord_eq_none hrun) (by nofun)
    (State.bufferOk_of_ne (by nofun) (by nofun) (by nofun))

theorem State.Inv.cancelWait (h : State.Inv s) (hrun : s.runState ≠ .faulted) : State.Inv (State.cancelWait s) :=
  State.inv_of_bounded ⟨h.memory, h.stack, Nat.le_refl 16⟩ h.prescaler (h.faultRecord_eq_none hrun) (by nofun)
    (State.bufferOk_of_ne (by nofun) (by nofun) (by nofun))

theorem State.Inv.resolveKey (h : State.Inv s) (k : Nibble) : State.Inv (State.resolveKey s k) := by
  unfold State.resolveKey
  split
  · next hrun _ => exact h.deliverKey (by rw [hrun]; nofun) _ k
  · exact h

end

/-- Settles O54: an accepted action is one of the three updates, and each keeps the invariant. -/
theorem hostActionKeepsInvariant : Obligations.HostActionKeepsInvariant := by
  unfold Obligations.HostActionKeepsInvariant
  intro s a h
  cases haccepts : State.acceptsHost s with
  | false => rw [State.hostAct_of_not_acceptsHost haccepts]; exact h
  | true =>
    cases a with
    | updateKeys b =>
      rw [State.hostAct_updateKeys haccepts]
      exact h.setKeys_setHostQueue b s.hostQueue
    | resolveKey k =>
      rw [State.hostAct_resolveKey haccepts]
      exact h.resolveKey k
    | cancelWait =>
      by_cases hwait : s.runState = .waitKey
      · rw [State.hostAct_cancelWait_of_waitKey hwait]
        exact h.cancelWait (by rw [hwait]; nofun)
      · rw [State.hostAct_cancelWait_of_ne hwait]
        exact h

/-! ### Progress -/

section
variable {s : State}

theorem exec_next (i : Instr) (s : State) : ∃ t, exec i s = .next t := by
  obtain ⟨t, hnext, -⟩ := everyInstructionAnswersNext i s
  exact ⟨t, hnext⟩

/-- Under the invariant there is an instruction in the buffer to execute. -/
theorem executeStep_next (h : State.Inv s) (hrun : s.runState = .execute) : ∃ t, executeStep s = .next t := by
  obtain ⟨i, hinstr, -⟩ := h.buffer.2 (.inl hrun)
  rw [executeStep_of_some hinstr]
  exact exec_next i _

theorem afterDecode_next (h : State.Inv s) : ∃ t, afterDecode s = .next t := by
  by_cases hexecute : s.runState = .execute
  · rw [afterDecode_of_execute hexecute]
    exact executeStep_next h hexecute
  · exact ⟨s, afterDecode_of_ne hexecute⟩

end

/-- Settles O50: in each run state the transitions find what they need in the buffer. -/
theorem runningMachineSteps : Obligations.RunningMachineSteps := by
  unfold Obligations.RunningMachineSteps
  intro s h hfaulted hhalted
  cases hrun : s.runState with
  | fetch =>
    rw [step_of_fetch hrun]
    have hfetched := fetchStep_keeps_inv h hrun
    obtain hdecode | hfault := fetchStep_runState_cases s
    · rw [afterFetch_of_decode hdecode]
      exact afterDecode_next (decodeStep_keeps_inv hfetched hdecode)
    · exact ⟨_, afterFetch_of_ne (by rw [hfault]; nofun)⟩
  | decode =>
    rw [step_of_decode hrun]
    exact afterDecode_next (decodeStep_keeps_inv h hrun)
  | execute =>
    rw [step_of_execute hrun]
    exact executeStep_next h hrun
  | waitKey =>
    obtain ⟨i, hinstr, -⟩ := h.buffer.2 (.inr hrun)
    rw [step_of_waitKey hrun, runBuffered_of_some hinstr]
    exact exec_next i s
  | faulted => exact absurd hrun hfaulted
  | halted => exact absurd hrun hhalted

end Sys2Proof.Machine
end

section
/-! PROOFS. Reset (`70_reset_and_hazards.md`): what memory holds after `Reset(rom)`, and the state it leaves. -/

namespace Sys2Proof.Machine

/-! ### Memory after reset -/

section
variable (p : LaunchParams)

/-- RESET_MEM with the font over it, before the ROM is loaded (R258). -/
def fontMemory : Memory :=
  Memory.writeBytes (Memory.writeBytes [] 0 (p.mem.take Config.memSize)) 0 p.font.toList

theorem resetMemory_eq (rom : List Byte) : resetMemory p rom = Memory.writeBytes (fontMemory p) 0x200 rom := rfl

theorem wf_launchMemory : Memory.wf (Memory.writeBytes [] 0 (p.mem.take Config.memSize)) = true :=
  Memory.wf_writeBytes (by simp) rfl

theorem font_fits : 0 + p.font.toList.length ≤ Config.memSize := by
  rw [Vector.length_toList]
  decide

theorem wf_fontMemory : Memory.wf (fontMemory p) = true := Memory.wf_writeBytes (font_fits p) (wf_launchMemory p)

theorem read_fontMemory_font (a : Nat) (h : a < 80) : Memory.read (fontMemory p) a = p.font[a] := by
  have hread := Memory.read_writeBytes_inside (font_fits p) (wf_launchMemory p) a (by simpa using h)
  rw [Nat.zero_add] at hread
  exact hread.trans (Vector.getElem_toList _)

theorem read_fontMemory_mem {a : Nat} (h : a < p.mem.length) (hspace : a < 65536) (hfont : 80 ≤ a) :
    Memory.read (fontMemory p) a = p.mem[a] := by
  have hlength : a < (p.mem.take Config.memSize).length := by
    rw [List.length_take]
    exact Nat.lt_min.mpr ⟨hspace, h⟩
  have hread :=
    Memory.read_writeBytes_inside (m := []) (a := 0) (bs := p.mem.take Config.memSize) (by simp) rfl a hlength
  rw [Nat.zero_add] at hread
  rw [fontMemory, Memory.read_writeBytes_other _ _ (.inr (by simpa using hfont)), hread, List.getElem_take]

variable {p}

theorem wf_resetMemory {rom : List Byte} (hfits : rom.length ≤ 0xFE00) : Memory.wf (resetMemory p rom) = true := by
  rw [resetMemory_eq]
  exact Memory.wf_writeBytes (Nat.add_le_add_left hfits 0x200) (wf_fontMemory p)

theorem read_resetMemory_rom {rom : List Byte} (hfits : rom.length ≤ 0xFE00) (j : Nat) (h : j < rom.length) :
    Memory.read (resetMemory p rom) (0x200 + j) = rom[j] :=
  Memory.read_writeBytes_inside (Nat.add_le_add_left hfits 0x200) (wf_fontMemory p) j h

theorem read_resetMemory_outside {rom : List Byte} {a : Nat} (h : a < 0x200 ∨ 0x200 + rom.length ≤ a) :
    Memory.read (resetMemory p rom) a = Memory.read (fontMemory p) a :=
  Memory.read_writeBytes_other _ _ h

end

/-- Settles O55: the ROM lies over the font memory from 0x200 on and fits below 0x10000, so each byte is read where it
was loaded last; the other fields are set outright. -/
theorem resetLoadsRomAndFont : Obligations.ResetLoadsRomAndFont := by
  unfold Obligations.ResetLoadsRomAndFont
  intro s p rom
  refine ⟨fun hlong => if_neg (Nat.not_le.mpr hlong), fun hfits => ⟨_, if_pos hfits, ?rom, ?font, ?mem, ?fields⟩⟩
  case rom => exact read_resetMemory_rom hfits
  case font =>
    intro d k h hk
    exact (read_resetMemory_outside (.inl (by omega))).trans (read_fontMemory_font p _ h)
  case mem =>
    intro a h hspace hfont houtside
    exact (read_resetMemory_outside houtside).trans (read_fontMemory_mem p h hspace hfont)
  case fields =>
    refine ⟨rfl, rfl, rfl, rfl, rfl, rfl, rfl, rfl, rfl, rfl, rfl, rfl, rfl, rfl, fun hcadence => ?inv⟩
    exact State.inv_of_bounded ⟨wf_resetMemory hfits, Nat.zero_le _, Nat.le_refl 16⟩ hcadence rfl (by nofun)
      (State.bufferOk_of_ne (by nofun) (by nofun) (by nofun))

end Sys2Proof.Machine
end

section
/-! PROOFS. Assembler (`30_encoding.md` section 6): the extended `LD I`. -/

namespace Sys2Proof.Machine

/-! ### Running one list after another -/

theorem execAll_append {is js : List Instr} {s t : State} (h : execAll is s = .next t) :
    execAll (is ++ js) s = execAll js t := by
  induction is generalizing s with
  | nil => cases h; rfl
  | cons i is ih =>
    simp only [List.cons_append, execAll] at h ⊢
    cases hi : exec i s with
    | next u => simp only [hi] at h ⊢; exact ih h
    | fault f => simp only [hi] at h; cases h
    | refused r => simp only [hi] at h; cases h

theorem execAll_cons {i : Instr} {is : List Instr} {s t : State} (h : exec i s = .next t) :
    execAll (i :: is) s = execAll is t := by
  simp only [execAll, h]

/-! ### Runs of the pseudo-instruction -/

/-- What a part of the extended `LD I` does: from `s` it runs to `t`, where `I` is the number `a` and `V[14]` the byte
`b`, and nothing else has changed. -/
structure LoadsTo (is : List Instr) (s : State) (a : Nat) (b : Byte) (t : State) : Prop where
  runs : execAll is s = .next t
  index : t.i.toNat = a
  scratch : State.reg t 0xE#4 = b
  frame : Unchanged s t fun p => p = .index ∨ p = .reg 0xE#4

theorem Unchanged.trans {s t u : State} {w : Part → Prop} (hst : Unchanged s t w) (htu : Unchanged t u w) :
    Unchanged s u w := by
  intro p hp
  have h1 := hst p hp
  have h2 := htu p hp
  cases p <;> exact Eq.trans h2 h1

theorem LoadsTo.append {is js : List Instr} {s t u : State} {a a' : Nat} {b b' : Byte} (h1 : LoadsTo is s a b t)
    (h2 : LoadsTo js t a' b' u) : LoadsTo (is ++ js) s a' b' u where
  runs := (execAll_append h1.runs).trans h2.runs
  index := h2.index
  scratch := h2.scratch
  frame := h1.frame.trans h2.frame

/-- `LD I, nnn` sets `I` and keeps `V[14]`. -/
theorem loadsTo_ldINnn (s : State) (nnn : Addr) :
    ∃ t, LoadsTo [.ldINnn nnn] s nnn.toNat (State.reg s 0xE#4) t :=
  ⟨_, execAll_cons (exec_ldINnn nnn s), toNat_zextAddr nnn, rfl,
    ((Unchanged.refl s fun p => p = .index ∨ p = .reg 0xE#4).setI (.inl rfl)).toFetch⟩

theorem loadsTo_ldVxKk (s : State) (b : Byte) : ∃ t, LoadsTo [.ldVxKk 0xE#4 b] s s.i.toNat b t :=
  ⟨_, execAll_cons (exec_ldVxKk 0xE#4 b s), rfl, State.reg_setReg_same s 0xE#4 b,
    ((Unchanged.refl s fun p => p = .index ∨ p = .reg 0xE#4).setReg (.inr rfl)).toFetch⟩

/-- `q` additions of `V[14]` to `I` add `q` times its value, if that does not wrap. -/
theorem loadsTo_replicate_addIVx (q : Nat) {s : State} {b : Byte} (hb : State.reg s 0xE#4 = b)
    (hroom : s.i.toNat + q * b.toNat < 65536) :
    ∃ t, LoadsTo (List.replicate q (.addIVx 0xE#4)) s (s.i.toNat + q * b.toNat) b t := by
  induction q generalizing s with
  | zero => exact ⟨s, rfl, by simp, hb, Unchanged.refl s _⟩
  | succ q ih =>
    obtain ⟨t, hnext, -, hindex, hframe⟩ := completes_setI s (s.i + zextByte (State.reg s 0xE#4))
    have hreg : State.reg t 0xE#4 = b := (hframe (.reg 0xE#4) (by nofun)).trans hb
    have hmul : (q + 1) * b.toNat = b.toNat + q * b.toNat := by ring
    have hsum : t.i.toNat = s.i.toNat + b.toNat := by
      rw [hindex, BitVec.toNat_add, toNat_zextByte, hb, Nat.mod_eq_of_lt (by omega)]
    obtain ⟨u, hu⟩ := ih hreg (by omega)
    refine ⟨u, ?_, ?_, hu.scratch, Unchanged.trans (fun p hp => hframe p (by tauto)) hu.frame⟩
    · exact (execAll_cons ((exec_addIVx 0xE#4 s).trans hnext)).trans hu.runs
    · rw [hu.index, hsum, hmul, Nat.add_assoc]

/-- A group of the pseudo-instruction: `V[14]` is loaded with `b` and added `q` times. -/
theorem loadsTo_group (q : Nat) (s : State) (b : Byte) (hroom : s.i.toNat + q * b.toNat < 65536) :
    ∃ t, LoadsTo (.ldVxKk 0xE#4 b :: List.replicate q (.addIVx 0xE#4)) s (s.i.toNat + q * b.toNat) b t := by
  obtain ⟨t, ht⟩ := loadsTo_ldVxKk s b
  obtain ⟨u, hu⟩ := loadsTo_replicate_addIVx q ht.scratch (ht.index ▸ hroom)
  exact ⟨u, ht.index ▸ ht.append hu⟩

theorem loadsTo_nil (s : State) : LoadsTo [] s s.i.toNat (State.reg s 0xE#4) s := ⟨rfl, rfl, rfl, Unchanged.refl s _⟩

/-- The additions of 0xFF, left out when there are none. -/
theorem loadsTo_fullGroup (q : Nat) (s : State) (hroom : s.i.toNat + q * 0xFF < 65536) :
    ∃ t, LoadsTo (if 0 < q then .ldVxKk 0xE#4 0xFF#8 :: List.replicate q (.addIVx 0xE#4) else []) s
      (s.i.toNat + q * 0xFF) (if 0 < q then 0xFF#8 else State.reg s 0xE#4) t := by
  obtain rfl | hq := Nat.eq_zero_or_pos q
  · exact ⟨s, by simpa using loadsTo_nil s⟩
  · rw [if_pos hq, if_pos hq]
    exact loadsTo_group q s 0xFF#8 hroom

/-- The addition of the remainder, left out when it is 0. -/
theorem loadsTo_restGroup {m : Nat} (hm : m < 256) (s : State) (hroom : s.i.toNat + m < 65536) :
    ∃ t, LoadsTo (if 0 < m then [.ldVxKk 0xE#4 (BitVec.ofNat 8 m), .addIVx 0xE#4] else []) s (s.i.toNat + m)
      (if 0 < m then BitVec.ofNat 8 m else State.reg s 0xE#4) t := by
  obtain rfl | hpos := Nat.eq_zero_or_pos m
  · exact ⟨s, loadsTo_nil s⟩
  · have hbyte : 1 * (BitVec.ofNat 8 m).toNat = m := by rw [Nat.one_mul, BitVec.toNat_ofNat, Nat.mod_eq_of_lt hm]
    rw [if_pos hpos, if_pos hpos]
    simpa only [hbyte, List.replicate_one] using loadsTo_group 1 s (BitVec.ofNat 8 m) (hbyte.symm ▸ hroom)

/-- Settles O57: after `LD I, 0xFFF` the two groups add what is left, 0xFF times the quotient and the remainder, and the
last group present is the one that leaves `V[14]`. -/
theorem extendedLoadReachesAddress : Obligations.ExtendedLoadReachesAddress := by
  unfold Obligations.ExtendedLoadReachesAddress
  intro s addr hlow hhigh
  have hdivmod : (addr - 0xFFF) / 0xFF * 0xFF + (addr - 0xFFF) % 0xFF = addr - 0xFFF := Nat.div_add_mod' _ _
  have hrest : (addr - 0xFFF) % 0xFF < 0xFF := Nat.mod_lt _ (by decide)
  rw [extendedLdI]
  generalize (addr - 0xFFF) / 0xFF = q at hdivmod ⊢
  generalize (addr - 0xFFF) % 0xFF = m at hdivmod hrest ⊢
  obtain ⟨t, ht⟩ := loadsTo_ldINnn s 0xFFF#12
  have hstart : t.i.toNat = 0xFFF := ht.index
  obtain ⟨u, hu⟩ := loadsTo_fullGroup q t (by omega)
  have hmiddle : u.i.toNat = t.i.toNat + q * 0xFF := hu.index
  obtain ⟨r, hr⟩ := loadsTo_restGroup (m := m) (by omega) u (by omega)
  have hall := (ht.append hu).append hr
  refine ⟨r, hall.runs, ?index, ?scratch, hall.frame⟩
  case index =>
    rw [hall.index]
    omega
  case scratch =>
    rw [hall.scratch, hu.scratch]
    obtain rfl | hpos := Nat.eq_zero_or_pos m
    · have hq : 0 < q := by omega
      simp [hq]
    · rw [if_pos hpos, if_neg hpos.ne', BitVec.toNat_ofNat, Nat.mod_eq_of_lt (by omega)]

end Sys2Proof.Machine
end

section
/-! PROOFS. Assembler (`30_encoding.md` section 6): the canonical text assembles back. -/

namespace Sys2Proof.Machine

/-! ### Tokens (R105) -/

/-- A character of a token that cannot begin a comment. -/
def tokenChar (c : Char) : Bool := !isSeparator c && c != '/'

/-- A text that is one token of a line. -/
def isToken (t : Text) : Bool := !t.isEmpty && t.all tokenChar

theorem isToken_iff (t : Text) : isToken t = true ↔ t ≠ [] ∧ ∀ c ∈ t, isSeparator c = false ∧ c ≠ '/' := by
  simp [isToken, tokenChar]

theorem dropComment_of_no_slash {t : Text} (h : ∀ c ∈ t, c ≠ '/') : dropComment t = t := by
  induction t with
  | nil => rfl
  | cons c rest ih =>
    obtain ⟨hc, hrest⟩ := List.forall_mem_cons.mp h
    rw [dropComment, ih hrest]
    rintro _ rfl
    exact absurd rfl hc

/-- The characters of a token are added to the token read so far. -/
theorem tokensFrom_append {t : Text} (h : ∀ c ∈ t, isSeparator c = false) (cur rest : Text) :
    tokensFrom cur (t ++ rest) = tokensFrom (t.reverse ++ cur) rest := by
  induction t generalizing cur with
  | nil => rfl
  | cons c t ih =>
    obtain ⟨hc, ht⟩ := List.forall_mem_cons.mp h
    simp [tokensFrom, hc, ih ht]

section
variable {t : Text}

theorem tokensFrom_token (ht : isToken t = true) : tokensFrom [] t = [t] := by
  obtain ⟨hne, hchars⟩ := (isToken_iff t).mp ht
  have happend := tokensFrom_append (fun c hc => (hchars c hc).1) [] []
  simpa [tokensFrom, hne] using happend

/-- A separator ends the token before it. -/
theorem tokensFrom_token_append (ht : isToken t = true) {c : Char} (hc : isSeparator c = true) (rest : Text) :
    tokensFrom [] (t ++ c :: rest) = t :: tokensFrom [] rest := by
  obtain ⟨hne, hchars⟩ := (isToken_iff t).mp ht
  rw [tokensFrom_append (fun c hc => (hchars c hc).1)]
  simp [tokensFrom, hc, hne]

theorem tokensFrom_separator {c : Char} (hc : isSeparator c = true) (rest : Text) :
    tokensFrom [] (c :: rest) = tokensFrom [] rest := by
  simp [tokensFrom, hc]

theorem ne_slash_of_isToken (ht : isToken t = true) : ∀ c ∈ t, c ≠ '/' :=
  fun c hc => (((isToken_iff t).mp ht).2 c hc).2

end

/-- A text with no comment in it, and its tokens. -/
def SplitsInto (t : Text) (tokens : List Text) : Prop := tokensFrom [] t = tokens ∧ ∀ c ∈ t, c ≠ '/'

section
variable {a rest : Text} {tokens : List Text}

theorem splitsInto_token (ha : isToken a = true) : SplitsInto a [a] := ⟨tokensFrom_token ha, ne_slash_of_isToken ha⟩

theorem forall_ne_slash_append {c : Char} (ha : isToken a = true) (hc : c ≠ '/') (hrest : ∀ d ∈ rest, d ≠ '/') :
    ∀ d ∈ a ++ c :: rest, d ≠ '/' :=
  List.forall_mem_append.mpr ⟨ne_slash_of_isToken ha, List.forall_mem_cons.mpr ⟨hc, hrest⟩⟩

/-- An operand and the operands after it, as the canonical text separates them (R111). -/
theorem SplitsInto.cons (ha : isToken a = true) (h : SplitsInto rest tokens) :
    SplitsInto (a ++ ',' :: ' ' :: rest) (a :: tokens) := by
  obtain ⟨htokens, hslash⟩ := h
  refine ⟨?_, forall_ne_slash_append ha (by decide) (List.forall_mem_cons.mpr ⟨by decide, hslash⟩)⟩
  rw [tokensFrom_token_append ha rfl, tokensFrom_separator rfl, htokens]

theorem tokenize_text1 {m : String} (hm : isToken m.toList = true) (h : SplitsInto rest tokens) :
    tokenize (text1 m rest) = m.toList :: tokens := by
  obtain ⟨htokens, hslash⟩ := h
  rw [tokenize, text1, dropComment_of_no_slash (forall_ne_slash_append hm (by decide) hslash),
    tokensFrom_token_append hm rfl, htokens]

end

/-! ### Lines of the canonical text -/

theorem isToken_of_mem_mnemonics : ∀ m ∈ mnemonics, isToken m.toList = true := by decide

theorem toUpper_of_mem_mnemonics : ∀ m ∈ mnemonics, String.ofList (m.toList.map Char.toUpper) = m := by decide

section
variable {m : String} {a b c : Text} {r : LineResult}

theorem assembleLine_text1 (hm : m ∈ mnemonics) {operands : Text} {tokens : List Text}
    (h : SplitsInto operands tokens) : assembleLine (text1 m operands) = assembleTokens m.toList tokens := by
  rw [assembleLine, tokenize_text1 (isToken_of_mem_mnemonics m hm) h]

theorem assembleLine_of_assemble1 (ha : isToken a = true) (hshape : assemble1 m a = some r)
    (hm : m ∈ mnemonics := by decide) : assembleLine (text1 m a) = r := by
  rw [assembleLine_text1 hm (splitsInto_token ha)]
  simp only [assembleTokens, toUpper_of_mem_mnemonics m hm, hshape]

theorem assembleLine_of_assemble2 (ha : isToken a = true) (hb : isToken b = true) (hshape : assemble2 m a b = some r)
    (hm : m ∈ mnemonics := by decide) : assembleLine (text2 m a b) = r := by
  rw [text2, assembleLine_text1 hm ((splitsInto_token hb).cons ha)]
  simp only [assembleTokens, toUpper_of_mem_mnemonics m hm, hshape]

theorem assembleLine_of_assemble3 (ha : isToken a = true) (hb : isToken b = true) (hc : isToken c = true)
    (hshape : assemble3 m a b c = some r) (hm : m ∈ mnemonics := by decide) : assembleLine (text3 m a b c) = r := by
  rw [text3, text2, assembleLine_text1 hm (((splitsInto_token hc).cons hb).cons ha)]
  simp only [assembleTokens, toUpper_of_mem_mnemonics m hm, hshape]

end

/-! ### Operands of the canonical text (R108, R109, R111) -/

@[simp] theorem hexValue_hexDigit : ∀ d : Nibble, hexValue (hexDigit d) = some d.toNat := by decide

@[simp] theorem tokenChar_hexDigit : ∀ d : Nibble, tokenChar (hexDigit d) = true := by decide

theorem isToken_regText : ∀ x : Nibble, isToken (regText x) = true := by decide

theorem isToken_nibbleText : ∀ n : Nibble, isToken (nibbleText n) = true := by decide

theorem isToken_byteText (kk : Byte) : isToken (byteText kk) = true := by
  have hlead : tokenChar '0' = true ∧ tokenChar 'x' = true := by decide
  simp [isToken, byteText, hlead]

theorem isToken_addrText (nnn : Addr) : isToken (addrText nnn) = true := by
  have hlead : tokenChar '0' = true ∧ tokenChar 'x' = true := by decide
  simp [isToken, addrText, hlead]

@[simp] theorem regOperand_regText : ∀ x : Nibble, regOperand (regText x) = some x := by decide

@[simp] theorem nibbleOperand_nibbleText : ∀ n : Nibble, nibbleOperand (nibbleText n) = some n := by decide

theorem hexFrom_hexDigit_cons (acc : Nat) (d : Nibble) (rest : Text) :
    hexFrom acc (hexDigit d :: rest) = hexFrom (16 * acc + d.toNat) rest := by
  simp only [hexFrom, hexValue_hexDigit]

/-- The two digits of a byte's text spell the byte. -/
theorem literal_byteText (kk : Byte) : literal (byteText kk) = some kk.toNat := by
  have hkk := kk.isLt
  rw [byteText, literal, hexFrom_hexDigit_cons, hexFrom_hexDigit_cons, hexFrom, BitVec.extractLsb'_toNat,
    BitVec.extractLsb'_toNat, Nat.shiftRight_eq_div_pow, Nat.shiftRight_eq_div_pow]
  exact congrArg some (by omega)

/-- The three digits of an address's text spell the address. -/
theorem literal_addrText (nnn : Addr) : literal (addrText nnn) = some nnn.toNat := by
  have hnnn := nnn.isLt
  rw [addrText, literal, hexFrom_hexDigit_cons, hexFrom_hexDigit_cons, hexFrom_hexDigit_cons, hexFrom,
    BitVec.extractLsb'_toNat, BitVec.extractLsb'_toNat, BitVec.extractLsb'_toNat, Nat.shiftRight_eq_div_pow,
    Nat.shiftRight_eq_div_pow, Nat.shiftRight_eq_div_pow]
  exact congrArg some (by omega)

@[simp] theorem byteOperand_byteText (kk : Byte) : byteOperand (byteText kk) = some kk := by
  simp [byteOperand, literalBelow, literal_byteText, kk.isLt]

/-! ### What the shapes emit -/

theorem emitAddr_addrText (form : AddrForm) (nnn : Addr) :
    emitAddr form (addrText nnn) = emits (AddrForm.build form nnn) := by
  have hliteral : looksLiteral (addrText nnn) = true := rfl
  simp [emitAddr, hliteral, literalBelow, literal_addrText, nnn.isLt]

theorem emitLdI_addrText (nnn : Addr) : emitLdI (addrText nnn) = emits (.ldINnn nnn) := by
  have hnnn := nnn.isLt
  have hliteral : looksLiteral (addrText nnn) = true := rfl
  have hword : nnn.toNat < 0x10000 := by omega
  have hshort : nnn.toNat ≤ 0xFFF := by omega
  simp [emitLdI, hliteral, literalBelow, literal_addrText, hword, hshort]

theorem emitReg_regText (f : Nibble → Instr) (x : Nibble) : emitReg f (regText x) = emits (f x) := by
  simp [emitReg, emitOpt]

theorem emitRegReg_regText (f : Nibble → Nibble → Instr) (x y : Nibble) :
    emitRegReg f (regText x) (regText y) = emits (f x y) := by
  simp [emitRegReg, emitOpt]

theorem emitRegByte_regText_byteText (f : Nibble → Byte → Instr) (x : Nibble) (kk : Byte) :
    emitRegByte f (regText x) (byteText kk) = emits (f x kk) := by
  simp [emitRegByte, emitOpt]

section
variable (byteForm : Nibble → Byte → Instr) (regForm : Nibble → Nibble → Instr) (x : Nibble)

/-- A byte's text looks like a literal, so it selects the form with a byte (R107). -/
theorem emitRegOrByte_byteText (kk : Byte) :
    emitRegOrByte byteForm regForm (regText x) (byteText kk) = emits (byteForm x kk) :=
  (if_pos rfl).trans (emitRegByte_regText_byteText byteForm x kk)

/-- A register's text does not. -/
theorem emitRegOrByte_regText (y : Nibble) :
    emitRegOrByte byteForm regForm (regText x) (regText y) = emits (regForm x y) :=
  (if_neg (by nofun)).trans (emitRegReg_regText regForm x y)

end

theorem emitDrw_text (x y n : Nibble) :
    emitDrw (regText x) (regText y) (nibbleText n) = emits (.drw x y n) := by
  simp [emitDrw, emitOpt]

/-- A register's text is none of the special operands. -/
theorem regText_ne_special : ∀ x : Nibble, regText x ∉
    ["I".toList, "DT".toList, "ST".toList, "F".toList, "B".toList, "[I]".toList, "K".toList] := by decide

/-- A line of `LD` whose first operand is a register is told by its second. -/
theorem emitLd_regText (x : Nibble) (b : Text) :
    emitLd (regText x) b =
      if b = "DT".toList then emits (.ldVxDt x)
      else if b = "K".toList then emits (.ldVxK x)
      else if b = "[I]".toList then emits (.ldVxMem x)
      else emitRegOrByte .ldVxKk .ldVxVy (regText x) b := by
  have hspecial := regText_ne_special x
  simp only [List.mem_cons, List.not_mem_nil, or_false, not_or] at hspecial
  obtain ⟨hI, hDT, hST, hF, hB, hMem, -⟩ := hspecial
  simp only [emitLd, hI, hDT, hST, hF, hB, hMem, if_false, emitReg_regText]

theorem emitLd_regText_byteText (x : Nibble) (kk : Byte) :
    emitLd (regText x) (byteText kk) = emits (.ldVxKk x kk) := by
  rw [emitLd_regText, if_neg (by nofun), if_neg (by nofun), if_neg (by nofun), emitRegOrByte_byteText]

theorem emitLd_regText_regText (x y : Nibble) : emitLd (regText x) (regText y) = emits (.ldVxVy x y) := by
  rw [emitLd_regText, if_neg (by nofun), if_neg (by nofun), if_neg (by nofun), emitRegOrByte_regText]

theorem emitAdd_regText (x : Nibble) (b : Text) :
    emitAdd (regText x) b = emitRegOrByte .addVxKk .addVxVy (regText x) b := if_neg (by nofun)

/-! ### The obligation -/

/-- The text of `SHR` and `SHL` shows no `y`, and the line is built with `y = 0` (R91, R118). -/
theorem assembleLine_shrVx (x y : Nibble) : assembleLine (instrText (.shrVx x y)) = .ok [.instr (.shrVx x 0#4)] :=
  assembleLine_of_assemble1 (isToken_regText x) (congrArg some (emitReg_regText (.shrVx · 0#4) x))

theorem assembleLine_shlVx (x y : Nibble) : assembleLine (instrText (.shlVx x y)) = .ok [.instr (.shlVx x 0#4)] :=
  assembleLine_of_assemble1 (isToken_regText x) (congrArg some (emitReg_regText (.shlVx · 0#4) x))

section
variable {m : String} {i : Instr}

/-- A line with two register operands whose shape emits the instruction. -/
theorem assembleLine_regReg {x y : Nibble} (hshape : assemble2 m (regText x) (regText y) = some (emits i))
    (hm : m ∈ mnemonics := by decide) : assembleLine (text2 m (regText x) (regText y)) = .ok [.instr i] :=
  assembleLine_of_assemble2 (isToken_regText x) (isToken_regText y) hshape hm

theorem assembleLine_regByte {x : Nibble} {kk : Byte} (hshape : assemble2 m (regText x) (byteText kk) = some (emits i))
    (hm : m ∈ mnemonics := by decide) : assembleLine (text2 m (regText x) (byteText kk)) = .ok [.instr i] :=
  assembleLine_of_assemble2 (isToken_regText x) (isToken_byteText kk) hshape hm

/-- A line with a register and a special operand, in either order. -/
theorem assembleLine_regSpecial {x : Nibble} {special : Text}
    (hshape : assemble2 m (regText x) special = some (emits i)) (hspecial : isToken special = true := by decide)
    (hm : m ∈ mnemonics := by decide) : assembleLine (text2 m (regText x) special) = .ok [.instr i] :=
  assembleLine_of_assemble2 (isToken_regText x) hspecial hshape hm

theorem assembleLine_specialReg {x : Nibble} {special : Text}
    (hshape : assemble2 m special (regText x) = some (emits i)) (hspecial : isToken special = true := by decide)
    (hm : m ∈ mnemonics := by decide) : assembleLine (text2 m special (regText x)) = .ok [.instr i] :=
  assembleLine_of_assemble2 hspecial (isToken_regText x) hshape hm

theorem assembleLine_addr {nnn : Addr} (hshape : assemble1 m (addrText nnn) = some (emits i))
    (hm : m ∈ mnemonics := by decide) : assembleLine (text1 m (addrText nnn)) = .ok [.instr i] :=
  assembleLine_of_assemble1 (isToken_addrText nnn) hshape hm

theorem assembleLine_reg {x : Nibble} (hshape : assemble1 m (regText x) = some (emits i))
    (hm : m ∈ mnemonics := by decide) : assembleLine (text1 m (regText x)) = .ok [.instr i] :=
  assembleLine_of_assemble1 (isToken_regText x) hshape hm

end

theorem assembleLine_instrText (i : Instr) (hshr : ∀ x y, i ≠ .shrVx x y) (hshl : ∀ x y, i ≠ .shlVx x y) :
    assembleLine (instrText i) = .ok [.instr i] := by
  cases i with
  | shrVx x y => exact absurd rfl (hshr x y)
  | shlVx x y => exact absurd rfl (hshl x y)
  | cls | ret => decide
  | sys nnn => exact assembleLine_addr (congrArg some (emitAddr_addrText .sys nnn))
  | jp nnn => exact assembleLine_addr (congrArg some (emitAddr_addrText .jp nnn))
  | call nnn => exact assembleLine_addr (congrArg some (emitAddr_addrText .call nnn))
  | skpVx x => exact assembleLine_reg (congrArg some (emitReg_regText .skpVx x))
  | sknpVx x => exact assembleLine_reg (congrArg some (emitReg_regText .sknpVx x))
  | jpV0Nnn nnn =>
    have hV0 : regOperand "V0".toList = some 0x0#4 := by decide
    exact assembleLine_of_assemble2 (by decide) (isToken_addrText nnn)
      (congrArg some ((if_pos hV0).trans (emitAddr_addrText .jpV0 nnn)))
  | ldINnn nnn =>
    exact assembleLine_of_assemble2 (by decide) (isToken_addrText nnn)
      (congrArg some ((if_pos rfl).trans (emitLdI_addrText nnn)))
  | seVxKk x kk => exact assembleLine_regByte (congrArg some (emitRegOrByte_byteText .seVxKk .seVxVy x kk))
  | sneVxKk x kk => exact assembleLine_regByte (congrArg some (emitRegOrByte_byteText .sneVxKk .sneVxVy x kk))
  | rndVxKk x kk => exact assembleLine_regByte (congrArg some (emitRegByte_regText_byteText .rndVxKk x kk))
  | ldVxKk x kk => exact assembleLine_regByte (congrArg some (emitLd_regText_byteText x kk))
  | addVxKk x kk =>
    exact assembleLine_regByte
      (congrArg some ((emitAdd_regText x _).trans (emitRegOrByte_byteText .addVxKk .addVxVy x kk)))
  | seVxVy x y => exact assembleLine_regReg (congrArg some (emitRegOrByte_regText .seVxKk .seVxVy x y))
  | sneVxVy x y => exact assembleLine_regReg (congrArg some (emitRegOrByte_regText .sneVxKk .sneVxVy x y))
  | orVxVy x y => exact assembleLine_regReg (congrArg some (emitRegReg_regText .orVxVy x y))
  | andVxVy x y => exact assembleLine_regReg (congrArg some (emitRegReg_regText .andVxVy x y))
  | xorVxVy x y => exact assembleLine_regReg (congrArg some (emitRegReg_regText .xorVxVy x y))
  | subVxVy x y => exact assembleLine_regReg (congrArg some (emitRegReg_regText .subVxVy x y))
  | subnVxVy x y => exact assembleLine_regReg (congrArg some (emitRegReg_regText .subnVxVy x y))
  | ldVxVy x y => exact assembleLine_regReg (congrArg some (emitLd_regText_regText x y))
  | addVxVy x y =>
    exact assembleLine_regReg
      (congrArg some ((emitAdd_regText x _).trans (emitRegOrByte_regText .addVxKk .addVxVy x y)))
  | drw x y n =>
    exact assembleLine_of_assemble3 (isToken_regText x) (isToken_regText y) (isToken_nibbleText n)
      (congrArg some (emitDrw_text x y n))
  | ldVxDt x => exact assembleLine_regSpecial (congrArg some (emitLd_regText x _))
  | ldVxK x => exact assembleLine_regSpecial (congrArg some (emitLd_regText x _))
  | ldVxMem x => exact assembleLine_regSpecial (congrArg some (emitLd_regText x _))
  | ldDtVx x => exact assembleLine_specialReg (congrArg some (emitReg_regText .ldDtVx x))
  | ldStVx x => exact assembleLine_specialReg (congrArg some (emitReg_regText .ldStVx x))
  | ldFVx x => exact assembleLine_specialReg (congrArg some (emitReg_regText .ldFVx x))
  | ldBVx x => exact assembleLine_specialReg (congrArg some (emitReg_regText .ldBVx x))
  | ldMemVx x => exact assembleLine_specialReg (congrArg some (emitReg_regText .ldMemVx x))
  | addIVx x => exact assembleLine_specialReg (congrArg some (emitReg_regText .addIVx x))

/-- Settles O56: each form's canonical text splits into its mnemonic and operands, whose shape emits the form back. -/
theorem canonicalTextAssemblesBack : Obligations.CanonicalTextAssemblesBack := by
  unfold Obligations.CanonicalTextAssemblesBack
  exact ⟨assembleLine_instrText, assembleLine_shrVx, assembleLine_shlVx⟩

end Sys2Proof.Machine
end
